-- ==== Sys2Proof/Word.lean ====
section
/-! DEFINITION. The word types of the core and their plainest arithmetic (00_scope.md R12, 20_memory.md R71). -/

namespace Sys2Proof

/-- A byte: what one ring slot holds and what one PS/2 frame carries (R71). -/
abbrev Byte := BitVec 8

/-- A command word, a response word, a timer value or the transmit register: 16 bits (R70, R43, R44). -/
abbrev Word := BitVec 16

/-- A count of microseconds of the time base, modulo `2^32` (R10). -/
abbrev Micros := BitVec 32

/-- The elapsed time from `since` to `now`, modulo `2^32` (R90). -/
def elapsed (now since : Micros) : Micros := now - since

end Sys2Proof
end

