-- ==== Sys2Proof/Machine/Event.lean ====
section
/-! DEFINITION. The atomic steps of the seven agents as data (00_scope.md R3), so that a schedule is a plain list. -/

namespace Sys2Proof

/-- One atomic step of one agent, or the environment event `RESET` (R3, R79, R340). -/
inductive Event where
  /-- HOST writes the command word `cw` to the port (R70, R280). -/
  | host (cw : Word)
  /-- HOST takes the next command of its loop `RXDRAIN` (R117). -/
  | rxDrain
  /-- HOST takes the next command of its function `MOUSE_DECODE` (R227). -/
  | mouseDecode
  /-- TIME: `TICK` (R52). -/
  | tick
  /-- DEV: `DEV_DRIVE(clk, dat)`; `none` is "keep" (R144). -/
  | devDrive (clk dat : Option Bool)
  /-- RXE: `RX_SERVICE` (R152). -/
  | rxService
  /-- WR: `W_REQ_DONE` (R185). -/
  | wReqDone
  /-- WR: `W_RTS_DONE` (R186). -/
  | wRtsDone
  /-- WR: `W_POLL_LOW` (R189). -/
  | wPollLow
  /-- WR: `W_POLL_HIGH` (R192). -/
  | wPollHigh
  /-- WR: `W_POLL_ACKL` (R193). -/
  | wPollAckL
  /-- WR: `W_POLL_ACKH` (R194). -/
  | wPollAckH
  /-- IRE: `IR_FIRE` (R246). -/
  | irFire
  /-- OSC: `OSC_STEP` (R252). -/
  | oscStep
  /-- The environment event `RESET` (R340). -/
  | reset
  deriving DecidableEq, Repr, Inhabited

end Sys2Proof
end

