-- ==== Sys2Proof/Config.lean ====
section
/-! DEFINITION. The parameters of 00_scope.md R8. The source's literals (R9, 93_implementation_defined.md U24; log
entry 23) and the values it leaves open (log entry 1) are fields of `Params`, which a state carries, so that a claim
about every state is a claim about every choice of them. The values nothing fixes are constants without a body. -/

namespace Sys2Proof

namespace Config

/-- `CODE_BITS`, the bits of a command code (R8). The width of the operand of IRSEND (R112) is this number too. -/
def codeBits : Nat := 12
/-- `N_SUB`, the numbered transmit sub-phases, two for each of the 24 data bits (R8). -/
def nSub : Nat := 48
/-- The half-period of the script directive `EDGE`, in microseconds (R118). -/
def halfPeriod : Nat := 40

end Config

/-- The numeric literals of the source, each a parameter with the source's value as default (R8, R9, U24). The counts
that fix a width or an encoding (12, 16, 48) are not among them (log entry 23). -/
structure Literals where
  /-- `T_RESYNC` -/
  tResync : Micros
  /-- `RX_PUSH_AT`, the sample number at which the byte is pushed. -/
  rxPushAt : BitVec 4
  /-- `RX_FRAME_LEN`, the sample number at which the bit counter returns to zero. -/
  rxFrameLen : BitVec 4
  /-- `T_START`, the start pulse. -/
  tStart : Word
  /-- `T_GAP_CODE`, the silence after the start pulse of a code frame. -/
  tGapCode : Word
  /-- `T_GAP_RPT`, the silence after the start pulse of a repeat frame. -/
  tGapRpt : Word
  /-- `T_PULSE`, a data-bit pulse and the end pulse. -/
  tPulse : Word
  /-- `T_ZERO`, the silence of a 0 bit. -/
  tZero : Word
  /-- `T_ONE`, the silence of a 1 bit. -/
  tOne : Word
  /-- `COMPL_AT`, the sub-phase at which the transmit register is complemented. -/
  complAt : Nat
  /-- `ALIGN_MASK` of the companion decoder. -/
  alignMask : Byte
  deriving DecidableEq, Repr, Inhabited

/-- The literals as the source has them (R8). -/
def Literals.d00 : Literals :=
  { tResync := 5000, rxPushAt := 9, rxFrameLen := 11, tStart := 9000, tGapCode := 4500, tGapRpt := 2100,
    tPulse := 400, tZero := 400, tOne := 1200, complAt := 25, alignMask := 0x0C }

/-- The parameters of R8: the source's literals, and the decided and OPEN ones. A state carries them unchanged; their constraints are `Params.wf`. -/
structure Params where
  /-- The source's literals. -/
  lit : Literals
  /-- `RB_LOG2`: `CAP = 2^RB_LOG2`. OPEN, at least 2 (R158), at most 16 (R115). -/
  rbLog2 : Nat
  /-- `T_CLK_REQ`. OPEN, at least 100 us. -/
  tClkReq : Micros
  /-- `T_RTS`. OPEN, at least 1 us. -/
  tRts : Micros
  /-- `ESC_BUDGET`. OPEN, at least 1. -/
  escBudget : Nat
  /-- `IR_MSB_FIRST` (R75). -/
  irMsbFirst : Bool
  /-- `CARRIER_HZ`. OPEN. That it is a WHOLE number of hertz is the model's choice (DESIGN CHOICE, log entry 2): R8, R108
  and R252 do not say so, and no claim of this model covers a carrier of a fractional frequency. -/
  carrierHz : Nat
  /-- `CARRIER_DUTY` is the fraction `dutyNum / dutyDen`. OPEN. That it is a ratio of whole numbers is the model's choice
  (DESIGN CHOICE, log entry 2). -/
  dutyNum : Nat
  /-- See `dutyNum`. -/
  dutyDen : Nat
  /-- `ALIGN_VALUE` of the companion decoder. OPEN (R223). -/
  alignValue : Byte
  deriving DecidableEq, Repr, Inhabited

/-- The parameters of the reset state: the defaults of R8 and, for the parameters without a default, the values the
spec's vectors name (95_test_vectors.md section 0). DESIGN CHOICE, log entry 1; the carrier's are log entry 2. -/
def Params.standard : Params :=
  { lit := .d00, rbLog2 := 4, tClkReq := 100, tRts := 10, escBudget := 1000, irMsbFirst := true,
    carrierHz := 1, dutyNum := 1, dutyDen := 2, alignValue := 0x08 }

/-- One draw of the registers that `RESET` leaves unspecified (R54, R342), the ring's slots apart. -/
structure ResetDraw where
  acc : Byte
  last : Micros
  wbyte : Byte
  esc : Nat
  wt0 : Micros
  now : Micros
  osc : Bool
  oscPhase : Nat
  deriving DecidableEq, Repr, Inhabited

namespace Config

/-- FREE VALUE. Which step comes next where the schedule held in the state has ended (R20: "the schedule (which
enabled non-urgent step happens next)" is no state; R309: every order is a run). Log entry 6. -/
opaque freeEvent : Nat → Event

/-- FREE VALUE. What the registers that `RESET` leaves unspecified hold after it (R342, U1). Log entry 11. -/
opaque freeReset : Nat → ResetDraw

/-- FREE VALUE. What ring slot `i` holds after the `RESET` that drew number `n` (R31, R342). Log entry 11. -/
opaque freeSlot (n i : Nat) : Byte

end Config

end Sys2Proof
end

