-- ==== Sys2Proof/Syntax.lean ====
section
/-! DEFINITION. The host commands of the core, one constructor for each row of spec/opcode_table.json
(30_encoding.md R112, R113). Operand bits that a command ignores are no operand and are not kept (log entry 21). -/

namespace Sys2Proof

/-- One host command. The operand widths are those of R112, so every term is a command word's meaning. -/
inductive Instr where
  /-- `NOP` (R281). -/
  | nop
  /-- `IRSEND code`, `code = arg[11:0]` (R242). -/
  | irsend (code : BitVec 12)
  /-- `IRRPT` (R243). -/
  | irrpt
  /-- `PS2WR byte`, `byte = arg[7:0]` (R184). -/
  | ps2wr (byte : Byte)
  /-- `RXPOP` (R160, R161). -/
  | rxpop
  /-- `RXCNT` (R162). -/
  | rxcnt
  /-- `RDST` (R282). -/
  | rdst
  /-- `CLRF mask`, `mask = arg[8:4]`: bit 0 is `OVF`, 1 `RSY`, 2 `WTO`, 3 `ILL`, 4 `WOK` (R112, R283). -/
  | clrf (mask : BitVec 5)
  /-- `RXEN en`, `en = arg[0]` (R164). -/
  | rxen (en : Bool)
  /-- Reserved words `0x9000` to `0x9FFF` (R287). -/
  | reserved9
  /-- Reserved words `0xA000` to `0xAFFF` (R287). -/
  | reservedA
  /-- Reserved words `0xB000` to `0xBFFF` (R287). -/
  | reservedB
  /-- Reserved words `0xC000` to `0xCFFF` (R287). -/
  | reservedC
  /-- Reserved words `0xD000` to `0xDFFF` (R287). -/
  | reservedD
  /-- Reserved words `0xE000` to `0xEFFF` (R287). -/
  | reservedE
  /-- Reserved words `0xF000` to `0xFFFF` (R287). -/
  | reservedF
  deriving DecidableEq, Repr, Inhabited

end Sys2Proof
end

