-- ==== Sys2Proof/WellFormed.lean ====
section
/-! DEFINITION. The checks on data that a type alone does not keep in range: the parameters (00_scope.md R8) and the
assembler's lines (30_encoding.md R116, R117). Every term of `Instr` is well formed: its operands have the widths of
R112. -/

namespace Sys2Proof

/-- The constraints on the source's literals, which the model adds to U24 (log entry 19): a byte has eight samples before
it is pushed and is pushed before its frame ends; every infrared interval lasts; the complement falls on an odd
sub-phase, where R246 makes it. -/
def Literals.wf (l : Literals) : Bool :=
  decide (8 ≤ l.rxPushAt ∧ l.rxPushAt < l.rxFrameLen ∧ 1 ≤ l.tStart ∧ 1 ≤ l.tGapCode ∧ 1 ≤ l.tGapRpt ∧ 1 ≤ l.tPulse ∧
    1 ≤ l.tZero ∧ 1 ≤ l.tOne ∧ l.complAt % 2 = 1 ∧ l.complAt ≤ 47)

/-- The constraints R8 puts on the parameters. `RB_LOG2 <= 16` is R115's, so that a count fits a response word; a
carrier has a frequency and a duty cycle strictly between 0 and 1, so that it is a square wave (R108). -/
def Params.wf (p : Params) : Bool :=
  decide (2 ≤ p.rbLog2 ∧ p.rbLog2 ≤ 16 ∧ 100 ≤ p.tClkReq ∧ 1 ≤ p.tRts ∧ 1 ≤ p.escBudget ∧ 1 ≤ p.carrierHz ∧
    1 ≤ p.dutyNum ∧ p.dutyNum < p.dutyDen ∧ p.lit.wf = true)

/-- One line of the assembler: a command with its numeral (R116), or a pseudo-instruction that is one word (R117). -/
inductive AsmLine where
  | nop
  | irsend (imm12 : Nat)
  | irrpt
  | ps2wr (imm8 : Nat)
  | rxpop
  | rxcnt
  | rdst
  | clrf (imm12 : Nat)
  | rxen (imm1 : Nat)
  | rxon
  | rxoff
  | clrall
  deriving DecidableEq, Repr

/-- The numeral of a line fits the operand that R116 gives the mnemonic. -/
def AsmLine.wf : AsmLine → Bool
  | .irsend n => decide (n < 4096)
  | .ps2wr n => decide (n < 256)
  | .clrf n => decide (n < 4096)
  | .rxen n => decide (n ≤ 1)
  | .nop | .irrpt | .rxpop | .rxcnt | .rdst | .rxon | .rxoff | .clrall => true

end Sys2Proof
end

