-- ==== Sys2Proof/Decode.lean ====
section
/-! DEFINITION. The command word (30_encoding.md section 4): its fields, a decoder that is total on all 65536 words
(R114), the encoder, and the assembler (R116, R117). -/

namespace Sys2Proof

/-- `CW[15:12]` (R111). -/
def opField (cw : Word) : BitVec 4 := cw.extractLsb' 12 4

/-- `CW[11:0]` (R111). -/
def argField (cw : Word) : BitVec 12 := cw.extractLsb' 0 12

/-- `byte = arg[7:0]` (R112). -/
def argByte (arg : BitVec 12) : Byte := arg.extractLsb' 0 8

/-- `mask = arg[8:4]` (R112). -/
def argMask (arg : BitVec 12) : BitVec 5 := arg.extractLsb' 4 5

/-- `en = arg[0]` (R112). -/
def argEn (arg : BitVec 12) : Bool := arg.getLsbD 0

/-- The command a word stands for (R113, R114). -/
def decode (cw : Word) : Instr :=
  match (opField cw).toNat with
  | 0 => .nop
  | 1 => .irsend (argField cw)
  | 2 => .irrpt
  | 3 => .ps2wr (argByte (argField cw))
  | 4 => .rxpop
  | 5 => .rxcnt
  | 6 => .rdst
  | 7 => .clrf (argMask (argField cw))
  | 8 => .rxen (argEn (argField cw))
  | 9 => .reserved9
  | 10 => .reservedA
  | 11 => .reservedB
  | 12 => .reservedC
  | 13 => .reservedD
  | 14 => .reservedE
  | _ => .reservedF

/-- Why a transfer at the port is no command (R111: a decoder reads exactly 16 bits for each command). -/
inductive PortReject where
  /-- The transfer has more than the 16 bits of one command word; the port has no such transfer (R76). -/
  | widerThanOneWord
  deriving DecidableEq, Repr

/-- The command that a transfer of `nbits` bits `w` is; the word's bits above `nbits` are 0 (log entry 24). -/
def decodePort (nbits w : Nat) : Except PortReject Instr :=
  if nbits ≤ 16 then .ok (decode (BitVec.ofNat 16 (w % 2 ^ nbits))) else .error .widerThanOneWord

/-- The command the decoder reads from a row's bits, numbered as the opcode table numbers them. -/
def decodeTableWord (nbits w : Nat) : Option Instr :=
  match decodePort nbits w with
  | .ok i => some i
  | .error _ => none

/-- `op` of a command (R113). -/
def Instr.op : Instr → BitVec 4
  | .nop => 0x0
  | .irsend _ => 0x1
  | .irrpt => 0x2
  | .ps2wr _ => 0x3
  | .rxpop => 0x4
  | .rxcnt => 0x5
  | .rdst => 0x6
  | .clrf _ => 0x7
  | .rxen _ => 0x8
  | .reserved9 => 0x9
  | .reservedA => 0xA
  | .reservedB => 0xB
  | .reservedC => 0xC
  | .reservedD => 0xD
  | .reservedE => 0xE
  | .reservedF => 0xF

/-- The operand field an assembler emits: the operands at their places, ignored bits 0 (R112). -/
def Instr.arg : Instr → BitVec 12
  | .irsend code => code
  | .ps2wr byte => 0#4 ++ byte
  | .clrf mask => 0#3 ++ mask ++ 0#4
  | .rxen en => 0#11 ++ BitVec.ofBool en
  | .nop | .irrpt | .rxpop | .rxcnt | .rdst => 0
  | .reserved9 | .reservedA | .reservedB | .reservedC | .reservedD | .reservedE | .reservedF => 0

/-- The command word of a command (R111, R116). -/
def encode (i : Instr) : Word := i.op ++ i.arg

/-- The operand bits of a word that its command reads; the others are ignored (R112). -/
def careArg (op : BitVec 4) : BitVec 12 :=
  match op.toNat with
  | 1 => 0xFFF
  | 3 => 0x0FF
  | 7 => 0x1F0
  | 8 => 0x001
  | _ => 0x000

/-- One row of the opcode map: a word `w` selects it iff `(w & mask) = value` (R113). -/
structure OpRow where
  mnemonic : String
  value : Word
  mask : Word
  deriving DecidableEq, Repr

/-- The opcode map of R113 with the seven reserved values of R114. -/
def opcodeMap : List OpRow :=
  [⟨"NOP", 0x0000, 0xF000⟩, ⟨"IRSEND", 0x1000, 0xF000⟩, ⟨"IRRPT", 0x2000, 0xF000⟩, ⟨"PS2WR", 0x3000, 0xF000⟩,
    ⟨"RXPOP", 0x4000, 0xF000⟩, ⟨"RXCNT", 0x5000, 0xF000⟩, ⟨"RDST", 0x6000, 0xF000⟩, ⟨"CLRF", 0x7000, 0xF000⟩,
    ⟨"RXEN", 0x8000, 0xF000⟩] ++
  [⟨"RESERVED_9", 0x9000, 0xF000⟩, ⟨"RESERVED_A", 0xA000, 0xF000⟩, ⟨"RESERVED_B", 0xB000, 0xF000⟩,
    ⟨"RESERVED_C", 0xC000, 0xF000⟩, ⟨"RESERVED_D", 0xD000, 0xF000⟩, ⟨"RESERVED_E", 0xE000, 0xF000⟩,
    ⟨"RESERVED_F", 0xF000, 0xF000⟩]

/-- The mnemonic of a command in spec/opcode_table.json. -/
def Instr.mnemonic : Instr → String
  | .nop => "NOP"
  | .irsend _ => "IRSEND"
  | .irrpt => "IRRPT"
  | .ps2wr _ => "PS2WR"
  | .rxpop => "RXPOP"
  | .rxcnt => "RXCNT"
  | .rdst => "RDST"
  | .clrf _ => "CLRF"
  | .rxen _ => "RXEN"
  | .reserved9 => "RESERVED_9"
  | .reservedA => "RESERVED_A"
  | .reservedB => "RESERVED_B"
  | .reservedC => "RESERVED_C"
  | .reservedD => "RESERVED_D"
  | .reservedE => "RESERVED_E"
  | .reservedF => "RESERVED_F"

/-- The word of an assembler line, `(op << 12) | arg` (R116), a pseudo-instruction by its expansion (R117). -/
def assemble : AsmLine → Word
  | .nop => 0x0000
  | .irsend n => 0x1000 ||| BitVec.ofNat 16 n
  | .irrpt => 0x2000
  | .ps2wr n => 0x3000 ||| BitVec.ofNat 16 n
  | .rxpop => 0x4000
  | .rxcnt => 0x5000
  | .rdst => 0x6000
  | .clrf n => 0x7000 ||| BitVec.ofNat 16 n
  | .rxen n => 0x8000 ||| BitVec.ofNat 16 n
  | .rxon => 0x8001
  | .rxoff => 0x8000
  | .clrall => 0x71F0

/-- Why an assembler line has no word. -/
inductive AsmReject where
  /-- The numeral does not fit the operand of the mnemonic (R116). -/
  | numeralOutOfRange
  deriving DecidableEq, Repr

/-- The word of a well-formed line. -/
def assembleLine (l : AsmLine) : Except AsmReject Word :=
  if l.wf then .ok (assemble l) else .error .numeralOutOfRange

end Sys2Proof
end

