-- ==== Sys2Proof/Machine/State.lean ====
section
/-! DEFINITION. The state of the core (10_state.md R20 to R54), one structure for each owner of registers (60_exceptions.md
R314), its reset value, and the reasons a step can stop. A 1-bit register is a `Bool`, `true` for 1. -/

namespace Sys2Proof.Machine

/-- The four line drivers (R22, R23): `true` is released, `false` is driven low. -/
structure Lines where
  hclk : Bool
  hdat : Bool
  dclk : Bool
  ddat : Bool
  deriving DecidableEq, Repr, Inhabited

/-- The clock edge interrupt: enable `RXIE` (R25) and pending latch `RXIF` (R29). -/
structure EdgeIrq where
  rxie : Bool
  rxif : Bool
  deriving DecidableEq, Repr, Inhabited

/-- The interrupt-local registers of the receive engine: `ACC` (R26), `BITCNT` (R27), `LAST` (R28). -/
structure RxEngine where
  acc : Byte
  bitcnt : BitVec 4
  last : Micros
  deriving DecidableEq, Repr, Inhabited

/-- The ring buffer (R30): the slots `BUF` as a canonical list of (slot, byte) pairs (R31, log entry 4), `HEAD` (R33)
and `TAIL` (R32), each held in 16 bits and masked to `RB_LOG2` bits by every rule (log entry 12). -/
structure Ring where
  buf : List Host.Cell
  head : BitVec 16
  tail : BitVec 16
  deriving DecidableEq, Repr, Inhabited

/-- `WS` (R36): the seven states that are stored; the encoding 7 is not among them (log entry 18). -/
inductive WState where
  /-- 0 `W_IDLE` -/
  | idle
  /-- 1 `W_REQ`: clock held low, request time running -/
  | req
  /-- 2 `W_RTS`: data held low, clock still low -/
  | rts
  /-- 3 `W_WL`: waiting for `CLK = 0` -/
  | wl
  /-- 4 `W_WH`: waiting for `CLK = 1` -/
  | wh
  /-- 5 `W_AL`: waiting for `DATA = 0` -/
  | al
  /-- 6 `W_AH`: waiting for `DATA = 1` -/
  | ah
  deriving DecidableEq, Repr, Inhabited

/-- The command writer: `WS` (R36), `WI` (R37), `WBYTE` (R38), `ESC` (R39, log entry 13), `WT0` (R40). -/
structure Writer where
  ws : WState
  wi : Fin 10
  wbyte : Byte
  esc : Nat
  wt0 : Micros
  deriving DecidableEq, Repr, Inhabited

/-- The infrared engine: `PH` (R42), `SR` (R43), `TCNT` and `OCR` (R44), `TEN` (R45), `GATE` (R46). -/
structure IrEngine where
  ph : BitVec 6
  sr : Word
  tcnt : Word
  ocr : Word
  ten : Bool
  gate : Bool
  deriving DecidableEq, Repr, Inhabited

/-- The oscillator: its output `OSC` and its hidden phase (R47), held as the instant of the next toggle: the
microsecond `due` and the part `frac` of it, in units of `1 / (CARRIER_HZ * dutyDen)` us (log entry 14). -/
structure Oscillator where
  level : Bool
  due : Micros
  frac : Nat
  deriving DecidableEq, Repr, Inhabited

/-- The five sticky flags (R50). -/
structure Sticky where
  ovf : Bool
  rsy : Bool
  wto : Bool
  ill : Bool
  wok : Bool
  deriving DecidableEq, Repr, Inhabited

/-- The name of one sticky flag (R50). -/
inductive Flag where
  | ovf | rsy | wto | ill | wok
  deriving DecidableEq, Repr

/-- Which command of `MOUSE_DECODE` the host issues next (R227, log entry 16). -/
inductive MousePhase where
  /-- No call is in progress; the next command is the `RXCNT` of a new one. -/
  | idle
  /-- At least three bytes are there; the next command pops the status byte. -/
  | needStatus
  /-- The status byte was aligned; the next command pops delta-x. -/
  | needX (status : Byte)
  /-- The next command pops delta-y. -/
  | needY (status x : Byte)
  deriving DecidableEq, Repr, Inhabited

/-- The companion decoder's host software: `BTN` (R53), the place in the running call, and the mask the last finished
call returned (R226; log entry 16). -/
structure MouseHost where
  btn : BitVec 2
  phase : MousePhase
  mask : BitVec 6
  deriving DecidableEq, Repr, Inhabited

/-- The whole state (R20). `cfg` is the fixed parameters (R8). `resp` is the response word of the last command (R70).
`sched` and `draws` are the model's own: the steps scheduled next, and the count of free values drawn (log entry 6). -/
structure State where
  cfg : Params
  now : Micros
  lines : Lines
  edge : EdgeIrq
  rx : RxEngine
  ring : Ring
  wr : Writer
  ir : IrEngine
  osc : Oscillator
  flags : Sticky
  mouse : MouseHost
  resp : Word
  sched : List Event
  draws : Nat
  deriving DecidableEq, Repr, Inhabited

/-- The machine right after reset (R54, R341). Registers the spec leaves unspecified: log entries 3, 4, 5; the
parameters: log entries 1 and 2; the model's own fields: log entries 6, 9, 16. -/
def State.reset : State :=
  { cfg := Params.standard
    now := 0
    lines := { hclk := true, hdat := true, dclk := true, ddat := true }
    edge := { rxie := false, rxif := false }
    rx := { acc := 0, bitcnt := 0, last := 0 }
    ring := { buf := [], head := 0, tail := 0 }
    wr := { ws := .idle, wi := 0, wbyte := 0, esc := 0, wt0 := 0 }
    ir := { ph := 51, sr := 0, tcnt := 0, ocr := 0, ten := false, gate := false }
    osc := { level := false, due := 0, frac := 0 }
    flags := { ovf := false, rsy := false, wto := false, ill := false, wok := false }
    mouse := { btn := 0, phase := .idle, mask := 0 }
    resp := 0
    sched := []
    draws := 0 }

/-- Why the machine stops with a fault: for no reason at all. "The core raises no trap and has no fault state" (R300),
so the type is empty and no step can fault (log entry 26). -/
inductive Fault where
  deriving DecidableEq, Repr

/-- Why the model declines to give a step a meaning. -/
inductive Refusal where
  /-- Raised by an arm of `exec` for a command without a meaning; safe. No arm raises it. -/
  | notModelled (mnemonic : String)
  /-- Raised by `step` where the parameters break the constraints of R8, "outside the spec: `refuse`" (U4); safe
  (log entry 19). -/
  | parametersOutsideSpec
  deriving DecidableEq, Repr

/-- What a step answers. -/
abbrev Result := Host.Outcome State Fault Refusal

end Sys2Proof.Machine
end

