-- ==== Sys2Proof/Machine/Ops.lean ====
section
/-! DEFINITION. The named operations over the ring's memory, the ring indices, the PS/2 lines and the response word
(20_memory.md, 40_pin_primitives.md). The core has no exception entry and no return from one (60_exceptions.md R310,
R311); setting a sticky flag takes that place and stands in Machine/Flags.lean. -/

namespace Sys2Proof.Machine

/-- What a slot reads as that nothing has written: DESIGN CHOICE, log entry 4 (R31 leaves it unspecified). -/
def unlistedByte : Byte := 0

/-- `BufRead(a)` over the list of slots (R13). -/
def memRead : List Host.Cell → Nat → Byte
  | [], _ => unlistedByte
  | (b, v) :: m, a => if b = a then v else memRead m a

/-- A slot of value `v` in front of higher slots, left out where it is what an unlisted slot reads as. -/
def memCons (a : Nat) (v : Byte) (m : List Host.Cell) : List Host.Cell :=
  if v = unlistedByte then m else (a, v) :: m

/-- `BufWrite(a, v)` over the list of slots (R13), keeping the list canonical. -/
def memWrite : List Host.Cell → Nat → Byte → List Host.Cell
  | [], a, v => memCons a v []
  | (b, w) :: m, a, v =>
    if a < b then memCons a v ((b, w) :: m)
    else if a = b then memCons a v m
    else (b, w) :: memWrite m a v

/-- The list is canonical from address `lo` on: addresses rise strictly and no slot holds the unlisted byte. -/
def memWfFrom (lo : Nat) : List Host.Cell → Bool
  | [] => true
  | (a, v) :: m => decide (lo ≤ a) && decide (v ≠ unlistedByte) && memWfFrom (a + 1) m

/-- The canonical form of a memory. -/
def Memory.wf (m : List Host.Cell) : Bool := memWfFrom 0 m

/-- Slots `0` to `n - 1` holding `f 0` to `f (n - 1)`, as a canonical memory. -/
def memOfFn (f : Nat → Byte) : Nat → List Host.Cell
  | 0 => []
  | n + 1 => memWrite (memOfFn f n) n (f n)

/-- `CAP = 2^RB_LOG2` (R31). -/
def ringCap (p : Params) : Nat := 2 ^ p.rbLog2

/-- `MASK = CAP - 1` (R8). -/
def ringMask (p : Params) : BitVec 16 := BitVec.ofNat 16 (ringCap p - 1)

/-- `(i + 1) & MASK` (R90). -/
def ringNext (p : Params) (i : BitVec 16) : BitVec 16 := (i + 1) &&& ringMask p

/-- The slot an index names: the index at `RB_LOG2` bits (R77). -/
def ringSlot (p : Params) (i : BitVec 16) : Nat := (i &&& ringMask p).toNat

/-- Empty iff `HEAD = TAIL` (R34). -/
def ringEmpty (r : Ring) : Bool := decide (r.head = r.tail)

/-- Full iff `((TAIL + 1) & MASK) = HEAD` (R34). -/
def ringFull (p : Params) (r : Ring) : Bool := decide (ringNext p r.tail = r.head)

/-- `COUNT = (TAIL - HEAD) & MASK` (R34, R90). -/
def ringCount (p : Params) (r : Ring) : BitVec 16 := (r.tail - r.head) &&& ringMask p

/-- The slot is written, then `TAIL` advances (R156, R83). -/
def ringPush (p : Params) (v : Byte) (r : Ring) : Ring :=
  { r with buf := memWrite r.buf (ringSlot p r.tail) v, tail := ringNext p r.tail }

/-- The oldest unread byte, `BufRead(HEAD)` (R160). -/
def ringFront (p : Params) (r : Ring) : Byte := memRead r.buf (ringSlot p r.head)

/-- `HEAD <- (HEAD + 1) & MASK` (R160). -/
def ringDrop (p : Params) (r : Ring) : Ring := { r with head := ringNext p r.head }

/-- Ring slot `a` of a state. -/
def bufRead (a : Nat) (s : State) : Byte := memRead s.ring.buf a

/-- The line value `CLK = HCLK & DCLK` (R142). -/
def clkLine (l : Lines) : Bool := l.hclk && l.dclk

/-- The line value `DATA = HDAT & DDAT` (R142). -/
def dataLine (l : Lines) : Bool := l.hdat && l.ddat

/-- The drivers after the named assignments, `none` keeping a driver (R143). -/
def driveLines (hclk hdat dclk ddat : Option Bool) (l : Lines) : Lines :=
  { hclk := hclk.getD l.hclk, hdat := hdat.getD l.hdat, dclk := dclk.getD l.dclk, ddat := ddat.getD l.ddat }

/-- `SetLines`: the assignments take effect together, and a 1-to-0 change of `CLK` latches `RXIF` (R143). -/
def setLines (hclk hdat dclk ddat : Option Bool) (s : State) : State :=
  let l := driveLines hclk hdat dclk ddat s.lines
  { s with lines := l, edge.rxif := s.edge.rxif || (clkLine s.lines && !clkLine l) }

/-- `HCLK := v` through `SetLines`. -/
def setHclk (v : Bool) (s : State) : State := setLines (some v) none none none s

/-- `HDAT := v` through `SetLines`. -/
def setHdat (v : Bool) (s : State) : State := setLines none (some v) none none s

/-- `Rearm()`: the latch is cleared, then the receive interrupt is enabled (R196). -/
def rearm (s : State) : State := { s with edge := { rxie := true, rxif := false } }

/-- `respond v` (R13): the response word of the command just written (R70, log entry 9). -/
def respond (v : Word) (s : State) : State := { s with resp := v }

end Sys2Proof.Machine
end

