-- ==== Sys2Proof/Machine/Operands.lean ====
section
/-! DEFINITION. The values commands answer (30_encoding.md R115) and the wire formats of a byte and of a code: the
PS/2 frame with its parity (R100, R101) and the infrared frames (R104 to R106). The operand fields of a command word
are taken apart by the decoder. -/

namespace Sys2Proof.Machine

/-- The response "accepted" or "armed" (R113). -/
def respYes : Word := 0x0001

/-- The response "rejected", "suppressed" or "nothing" (R113). -/
def respNo : Word := 0x0000

/-- The response of `RXPOP` to a byte: `VALID` at bit 15, bits 14:8 zero, the byte at bits 7:0 (R115). -/
def respByte (b : Byte) : Word := 0x8000 ||| b.zeroExtend 16

/-- Bit 15, `VALID`, of a response of `RXPOP` (R115). -/
def respValid (v : Word) : Bool := v.getLsbD 15

/-- The low 8 bits of a response word (R227). -/
def respLow (v : Word) : Byte := v.extractLsb' 0 8

/-- Odd parity `P(b)` (R101). -/
def parity (b : Byte) : Bool :=
  (((((((true ^^ b.getLsbD 0) ^^ b.getLsbD 1) ^^ b.getLsbD 2) ^^ b.getLsbD 3) ^^ b.getLsbD 4) ^^ b.getLsbD 5) ^^
    b.getLsbD 6) ^^ b.getLsbD 7

/-- The eleven slots of a PS/2 frame, slot 1 first (R100). -/
def frameSlots (b : Byte) : List Bool :=
  [false, b.getLsbD 0, b.getLsbD 1, b.getLsbD 2, b.getLsbD 3, b.getLsbD 4, b.getLsbD 5, b.getLsbD 6, b.getLsbD 7,
    parity b, true]

/-- `wbit(i)` for `i` = 0 to 8: the data bits least significant first, then the parity bit (R190). -/
def wbit (b : Byte) (i : Nat) : Bool := if i < 8 then b.getLsbD i else parity b

/-- The level of bit slot `i`: `wbit(i)`, and released in the stop slot 9 (R189). -/
def slotLevel (b : Byte) (i : Fin 10) : Bool := if i.val ≤ 8 then wbit b i.val else true

/-- One interval of the infrared envelope: the gate and a duration in microseconds (R104). -/
abbrev Interval := Bool × Nat

/-- The twelve bits of a code in the order they are sent (R75). -/
def codeBitsInOrder (msbFirst : Bool) (code : BitVec 12) : List Bool :=
  (List.range 12).map fun j => code.getLsbD (if msbFirst then 11 - j else j)

/-- The pulse and the silence that send one data bit (R104). -/
def bitIntervals (l : Literals) (b : Bool) : List Interval :=
  [(true, l.tPulse.toNat), (false, if b then l.tOne.toNat else l.tZero.toNat)]

/-- A code frame as a list of envelope intervals (R104, R105). -/
def codeFrame (l : Literals) (msbFirst : Bool) (code : BitVec 12) : List Interval :=
  [(true, l.tStart.toNat), (false, l.tGapCode.toNat)] ++
    (codeBitsInOrder msbFirst code).flatMap (bitIntervals l) ++
    (codeBitsInOrder msbFirst (~~~code)).flatMap (bitIntervals l) ++ [(true, l.tPulse.toNat)]

/-- A repeat frame as a list of envelope intervals (R106). -/
def repeatFrame (l : Literals) : List Interval :=
  [(true, l.tStart.toNat), (false, l.tGapRpt.toNat), (true, l.tPulse.toNat)]

end Sys2Proof.Machine
end

