-- ==== Sys2Proof/Machine/Flags.lean ====
section
/-! DEFINITION. The sticky flags (10_state.md R50), the failure causes that set them (60_exceptions.md R301) and the
STATUS word (R51, R282). -/

namespace Sys2Proof.Machine

/-- `flag F` (R13): the one way a failure or a result is recorded; nothing else is saved and nothing is entered
(R300, R310). -/
def raiseFlag (f : Flag) (s : State) : State :=
  match f with
  | .ovf => { s with flags.ovf := true }
  | .rsy => { s with flags.rsy := true }
  | .wto => { s with flags.wto := true }
  | .ill => { s with flags.ill := true }
  | .wok => { s with flags.wok := true }

/-- The bit of `STATUS`, and of the operand of `CLRF`, that shows a flag (R51, R301). -/
def Flag.statusBit : Flag → Nat
  | .ovf => 4
  | .rsy => 5
  | .wto => 6
  | .ill => 7
  | .wok => 8

/-- The value of a flag. -/
def Sticky.get (f : Sticky) : Flag → Bool
  | .ovf => f.ovf
  | .rsy => f.rsy
  | .wto => f.wto
  | .ill => f.ill
  | .wok => f.wok

/-- `CLRF` on the flags: a flag whose mask bit is 1 is cleared, the others keep their value (R283). -/
def clearFlags (m : BitVec 5) (f : Sticky) : Sticky :=
  { ovf := f.ovf && !m.getLsbD 0
    rsy := f.rsy && !m.getLsbD 1
    wto := f.wto && !m.getLsbD 2
    ill := f.ill && !m.getLsbD 3
    wok := f.wok && !m.getLsbD 4 }

/-- `STATUS.WBUSY` (R36, R51). -/
def writerBusy (w : Writer) : Bool := decide (w.ws ≠ .idle)

/-- The STATUS word, assembled at the instant of the read (R282). -/
def statusWord (s : State) : Word :=
  0#4 ++ BitVec.ofBool (dataLine s.lines) ++ BitVec.ofBool (clkLine s.lines) ++ BitVec.ofBool s.ir.gate ++
    BitVec.ofBool s.flags.wok ++ BitVec.ofBool s.flags.ill ++ BitVec.ofBool s.flags.wto ++
    BitVec.ofBool s.flags.rsy ++ BitVec.ofBool s.flags.ovf ++ BitVec.ofBool s.ir.ten ++
    BitVec.ofBool (writerBusy s.wr) ++ BitVec.ofBool s.edge.rxie ++ BitVec.ofBool (!ringEmpty s.ring)

end Sys2Proof.Machine
end

