-- ==== Sys2Proof/Machine/Infrared.lean ====
section
/-! DEFINITION. The infrared transmit engine: the arms IRSEND and IRRPT, the timer firing, and the free-running
carrier oscillator (44_ir_transmit.md). -/

namespace Sys2Proof.Machine

/-- `START` (R42). -/
def phStart : BitVec 6 := 0
/-- `END_PULSE` (R42). -/
def phEndPulse : BitVec 6 := 49
/-- `STOP` (R42). -/
def phStop : BitVec 6 := 50
/-- `IDLE` (R42). -/
def phIdle : BitVec 6 := 51
/-- `REPEAT` (R42). -/
def phRepeat : BitVec 6 := 52

/-- What every arm does in one step: the start pulse begins now, whatever was in flight (R242 to R244). -/
def armIr (l : Literals) (ph : BitVec 6) (e : IrEngine) : IrEngine :=
  { e with ph := ph, tcnt := 0, ocr := l.tStart, gate := true, ten := true }

/-- `IRSEND code`: the zero code is suppressed and changes nothing but the response (R242). -/
def execIrsend (code : BitVec 12) (s : State) : Result :=
  if code = 0 then .next (respond respNo s)
  else .next (respond respYes { s with ir := armIr s.cfg.lit phStart { s.ir with sr := code.zeroExtend 16 } })

/-- `IRRPT` (R243). -/
def execIrrpt (s : State) : Result :=
  .next (respond respYes { s with ir := armIr s.cfg.lit phRepeat s.ir })

/-- `txbit(n)` for an even sub-phase `n` (R248; the selection index under R75). -/
def txbit (msbFirst : Bool) (sr : Word) (n : Nat) : Bool :=
  let j := (n / 2 - 1) % Config.codeBits
  sr.getLsbD (if msbFirst then Config.codeBits - 1 - j else j)

/-- A firing begins an interval: the counter restarts, the gate and the next deadline are set, the phase moves on. -/
def beginInterval (gate : Bool) (ocr : Word) (ph : BitVec 6) (e : IrEngine) : IrEngine :=
  { e with tcnt := 0, gate := gate, ocr := ocr, ph := ph }

/-- The firing of `STOP`, and of the values R251 shows unreachable: gate off, timer off, `OCR` kept (R249). -/
def stopIr (e : IrEngine) : IrEngine := { e with tcnt := 0, gate := false, ten := false, ph := phIdle }

/-- One firing of the engine's registers, by the phase it finds (R246). -/
def fireIr (p : Params) (e : IrEngine) : IrEngine :=
  let n := e.ph.toNat
  if n = 0 then beginInterval false p.lit.tGapCode 1 e
  else if n ≤ Config.nSub then
    if n % 2 = 1 then
      beginInterval true p.lit.tPulse (e.ph + 1) (if n = p.lit.complAt then { e with sr := ~~~e.sr } else e)
    else beginInterval false (if txbit p.irMsbFirst e.sr n then p.lit.tOne else p.lit.tZero) (e.ph + 1) e
  else if n = 49 then beginInterval true p.lit.tPulse phStop e
  else if n = 50 then stopIr e
  else if n = 52 then beginInterval false p.lit.tGapRpt phEndPulse e
  else stopIr e

/-- The guard of `IR_FIRE` (R246). -/
def irFireEnabled (s : State) : Bool := s.ir.ten && decide (s.ir.tcnt = s.ir.ocr)

/-- `IR_FIRE` (R246), its guard apart. -/
def irFire (s : State) : State := { s with ir := fireIr s.cfg s.ir }

/-- `IR_OUT = GATE & OSC` (R48). -/
def irOut (s : State) : Bool := s.ir.gate && s.osc.level

/-- The parts of a microsecond in which the oscillator's phase is counted: `CARRIER_HZ * dutyDen` (log entry 14). -/
def oscUnit (p : Params) : Nat := p.carrierHz * p.dutyDen

/-- How long the oscillator stays at a level, in the units of `oscUnit`: one period is `10^6 * dutyDen` of them, the
fraction `dutyNum / dutyDen` of it at 1 (R252). -/
def oscHold (p : Params) (level : Bool) : Nat :=
  if level then 1000000 * p.dutyNum else 1000000 * (p.dutyDen - p.dutyNum)

/-- The guard of `OSC_STEP`: the instant of the next toggle is now (R252, log entry 14). -/
def oscStepEnabled (s : State) : Bool := decide (s.now = s.osc.due)

/-- `OSC_STEP`: the output toggles, and the next toggle is due one hold time later (R252, log entry 14). -/
def oscToggle (p : Params) (o : Oscillator) : Oscillator :=
  let span := o.frac + oscHold p (!o.level)
  { level := !o.level, due := o.due + BitVec.ofNat 32 (span / oscUnit p), frac := span % oscUnit p }

/-- `OSC_STEP` on the state, its guard apart. -/
def oscStep (s : State) : State := { s with osc := oscToggle s.cfg s.osc }

/-- The toggles due in this microsecond, at most `n` of them (log entry 14). -/
def oscSettle : Nat → State → State
  | 0, s => s
  | n + 1, s => if oscStepEnabled s then oscSettle n (oscStep s) else s

/-- More toggles than one microsecond can hold: each takes at least `10^6` of its `oscUnit` parts. -/
def oscTogglesAtOnce (p : Params) : Nat := oscUnit p / 1000000 + 1

/-- The oscillator with its next toggle `phase` parts of a microsecond ahead, reduced to one hold time of its level
(R47, R252). -/
def oscAt (p : Params) (now : Micros) (level : Bool) (phase : Nat) : Oscillator :=
  let left := phase % oscHold p level
  { level := level, due := now + BitVec.ofNat 32 (left / oscUnit p), frac := left % oscUnit p }

end Sys2Proof.Machine
end

