-- ==== Sys2Proof/Machine/Port.lean ====
section
/-! DEFINITION. The host system commands: NOP, RDST, CLRF and the reserved words (45_host_system_commands.md). -/

namespace Sys2Proof.Machine

/-- `NOP` (R281). -/
def execNop (s : State) : Result := .next (respond 0x0000 s)

/-- `RDST`: the response is STATUS at the instant of the step; nothing is cleared (R282). -/
def execRdst (s : State) : Result := .next (respond (statusWord s) s)

/-- `CLRF mask` (R283). -/
def execClrf (mask : BitVec 5) (s : State) : Result :=
  .next (respond 0x0000 { s with flags := clearFlags mask s.flags })

/-- What every reserved command word does: `flag ILL; respond 0x0000` (R287). -/
def reservedWord (s : State) : State := respond 0x0000 (raiseFlag .ill s)

/-- Reserved words `0x9000` to `0x9FFF` (R287). -/
def execReserved9 (s : State) : Result := .next (reservedWord s)

/-- Reserved words `0xA000` to `0xAFFF` (R287). -/
def execReservedA (s : State) : Result := .next (reservedWord s)

/-- Reserved words `0xB000` to `0xBFFF` (R287). -/
def execReservedB (s : State) : Result := .next (reservedWord s)

/-- Reserved words `0xC000` to `0xCFFF` (R287). -/
def execReservedC (s : State) : Result := .next (reservedWord s)

/-- Reserved words `0xD000` to `0xDFFF` (R287). -/
def execReservedD (s : State) : Result := .next (reservedWord s)

/-- Reserved words `0xE000` to `0xEFFF` (R287). -/
def execReservedE (s : State) : Result := .next (reservedWord s)

/-- Reserved words `0xF000` to `0xFFFF` (R287). -/
def execReservedF (s : State) : Result := .next (reservedWord s)

end Sys2Proof.Machine
end

