-- ==== Sys2Proof/Machine/Receive.lean ====
section
/-! DEFINITION. The PS/2 receive engine's one step and the host commands on the ring and on the receive enable
(41_ps2_receive.md). -/

namespace Sys2Proof.Machine

/-- The guard of `RX_SERVICE` (R152). -/
def rxServiceEnabled (s : State) : Bool := s.edge.rxie && s.edge.rxif

/-- The gap since the last sample exceeds `T_RESYNC`, strictly (R153). -/
def rxLate (s : State) : Bool := decide (s.cfg.lit.tResync < elapsed s.now s.rx.last)

/-- The watchdog, before the shift: a late edge forces `BITCNT` to 0, and `RSY` is set where a partial frame was
discarded (R153). -/
def rxWatchdog (s : State) : State :=
  { s with
    rx.bitcnt := if rxLate s then 0 else s.rx.bitcnt
    flags.rsy := s.flags.rsy || (rxLate s && decide (s.rx.bitcnt ≠ 0)) }

/-- The shift register after one more bit: right by one, the new bit at bit 7 (R152, R154). -/
def shiftIn (acc : Byte) (bit : Bool) : Byte := (acc >>> 1) ||| ((BitVec.ofBool bit).zeroExtend 8 <<< 7)

/-- The sample: `LAST` is taken, the bit enters `ACC`, `BITCNT` counts it (R152). -/
def rxSample (bit : Bool) (s : State) : State :=
  { s with rx := { acc := shiftIn s.rx.acc bit, bitcnt := s.rx.bitcnt + 1, last := s.now } }

/-- At the ninth sample the byte is pushed (R156), or dropped with `OVF` where the ring is full (R157). -/
def rxDeliver (s : State) : State :=
  let complete := decide (s.rx.bitcnt = s.cfg.lit.rxPushAt)
  { s with
    ring := if complete && !ringFull s.cfg s.ring then ringPush s.cfg s.rx.acc s.ring else s.ring
    flags.ovf := s.flags.ovf || (complete && ringFull s.cfg s.ring) }

/-- At the eleventh sample the frame ends (R152). -/
def rxFrameEnd (s : State) : State :=
  { s with rx.bitcnt := if s.rx.bitcnt = s.cfg.lit.rxFrameLen then 0 else s.rx.bitcnt }

/-- `RX_SERVICE` (R152), its guard apart. -/
def rxService (s : State) : State :=
  rxFrameEnd (rxDeliver (rxSample (dataLine s.lines) (rxWatchdog { s with edge.rxif := false })))

/-- `RXPOP`: on an empty ring nothing changes but the response (R161); else the oldest byte is read, then `HEAD`
advances (R160). -/
def rxpop (s : State) : State :=
  if ringEmpty s.ring then respond 0x0000 s
  else respond (respByte (ringFront s.cfg s.ring)) { s with ring := ringDrop s.cfg s.ring }

/-- `RXCNT` (R162). -/
def rxcnt (s : State) : State := respond (ringCount s.cfg s.ring) s

/-- `RXPOP` as a command. -/
def execRxpop (s : State) : Result := .next (rxpop s)

/-- `RXCNT` as a command. -/
def execRxcnt (s : State) : Result := .next (rxcnt s)

/-- `RXEN en`: rejected while the writer is busy; enabling clears the latch first (R164). -/
def execRxen (en : Bool) (s : State) : Result :=
  if writerBusy s.wr then .next (respond respNo s)
  else if en then .next (respond respYes (rearm s))
  else .next (respond respYes { s with edge.rxie := false })

/-- One turn of the host's loop `RXDRAIN`: an `RXPOP`, and another turn while the response is valid (R117, log entry
17). -/
def rxDrainTurn (s : State) : State :=
  let t := rxpop s
  if respValid t.resp then { t with sched := .rxDrain :: t.sched } else t

end Sys2Proof.Machine
end

