-- ==== Sys2Proof/Machine/Writer.lean ====
section
/-! DEFINITION. The PS/2 command writer: the command PS2WR and the sequencer's six steps (42_ps2_command_writer.md),
in the order LOW_SET_HIGH within a bit slot (R181, log entry 15). -/

namespace Sys2Proof.Machine

/-- `PS2WR byte` from an idle writer: the receive engine is suspended before the clock is touched (R184). -/
def startWrite (byte : Byte) (s : State) : State :=
  let s := setHclk false { s with wr.wbyte := byte, flags.wok := false, edge.rxie := false }
  { s with wr.wt0 := s.now, wr.wi := 0, wr.ws := .req }

/-- `PS2WR byte`: rejected while the writer is busy (R184). -/
def execPs2wr (byte : Byte) (s : State) : Result :=
  if writerBusy s.wr then .next (respond respNo s) else .next (respond respYes (startWrite byte s))

/-- Entry to a wait state loads the escape counter (R188). -/
def enterWait (ws : WState) (s : State) : State := { s with wr.ws := ws, wr.esc := s.cfg.escBudget }

/-- The guard of `W_REQ_DONE` (R185). -/
def wReqDoneEnabled (s : State) : Bool :=
  decide (s.wr.ws = .req) && decide (s.cfg.tClkReq ≤ elapsed s.now s.wr.wt0)

/-- `W_REQ_DONE` (R185), its guard apart. -/
def wReqDone (s : State) : State :=
  let s := setHdat false s
  { s with wr.wt0 := s.now, wr.ws := .rts }

/-- The guard of `W_RTS_DONE` (R186). -/
def wRtsDoneEnabled (s : State) : Bool :=
  decide (s.wr.ws = .rts) && decide (s.cfg.tRts ≤ elapsed s.now s.wr.wt0)

/-- `W_RTS_DONE` (R186), its guard apart. -/
def wRtsDone (s : State) : State :=
  let s := setHclk true s
  enterWait .wl { s with wr.wi := 0 }

/-- `Abandon()`: no line changes; the receive path is re-armed all the same (R195). -/
def abandonWrite (s : State) : State :=
  let s := rearm (raiseFlag .wto s)
  { s with wr.ws := .idle }

/-- The successful end of a write (R194). -/
def finishWrite (s : State) : State :=
  let s := rearm (raiseFlag .wok s)
  { s with wr.ws := .idle }

/-- A poll that did not see the awaited level: one of the budget is spent, and the write is abandoned where none is
left (R187). -/
def failedPoll (s : State) : State :=
  let s := { s with wr.esc := s.wr.esc - 1 }
  if s.wr.esc = 0 then abandonWrite s else s

/-- `W_POLL_LOW` (R189), its guard apart. -/
def wPollLow (s : State) : State :=
  if clkLine s.lines then failedPoll s
  else enterWait .wh (setHdat (slotLevel s.wr.wbyte s.wr.wi) s)

/-- `W_POLL_HIGH` (R192), its guard apart. -/
def wPollHigh (s : State) : State :=
  if clkLine s.lines then
    if h : s.wr.wi.val + 1 < 10 then enterWait .wl { s with wr.wi := ⟨s.wr.wi.val + 1, h⟩ }
    else enterWait .al s
  else failedPoll s

/-- `W_POLL_ACKL` (R193), its guard apart. -/
def wPollAckL (s : State) : State :=
  if dataLine s.lines then failedPoll s else enterWait .ah s

/-- `W_POLL_ACKH` (R194), its guard apart. -/
def wPollAckH (s : State) : State :=
  if dataLine s.lines then finishWrite s else failedPoll s

end Sys2Proof.Machine
end

