-- ==== Sys2Proof/Machine/Dispatch.lean ====
section
/-! DEFINITION. The meaning of every host command, one arm for each row of spec/opcode_table.json. -/

namespace Sys2Proof.Machine

def exec (i : Instr) (s : State) : Host.Outcome State Fault Refusal :=
  match i with
  | .nop => Sys2Proof.Machine.execNop s
  | .irsend code => Sys2Proof.Machine.execIrsend code s
  | .irrpt => Sys2Proof.Machine.execIrrpt s
  | .ps2wr byte => Sys2Proof.Machine.execPs2wr byte s
  | .rxpop => Sys2Proof.Machine.execRxpop s
  | .rxcnt => Sys2Proof.Machine.execRxcnt s
  | .rdst => Sys2Proof.Machine.execRdst s
  | .clrf mask => Sys2Proof.Machine.execClrf mask s
  | .rxen en => Sys2Proof.Machine.execRxen en s
  | .reserved9 => Sys2Proof.Machine.execReserved9 s
  | .reservedA => Sys2Proof.Machine.execReservedA s
  | .reservedB => Sys2Proof.Machine.execReservedB s
  | .reservedC => Sys2Proof.Machine.execReservedC s
  | .reservedD => Sys2Proof.Machine.execReservedD s
  | .reservedE => Sys2Proof.Machine.execReservedE s
  | .reservedF => Sys2Proof.Machine.execReservedF s

end Sys2Proof.Machine
end

