-- ==== Sys2Proof/Machine/Environment.lean ====
section
/-! DEFINITION. The steps of TIME and DEV and the event RESET (10_state.md R52, 40_pin_primitives.md R144,
70_reset_and_hazards.md R340 to R343). -/

namespace Sys2Proof.Machine

/-- The guard of `TICK`: no urgent step is enabled (R52, R11). -/
def tickEnabled (s : State) : Bool := !rxServiceEnabled s && !irFireEnabled s

/-- `TICK` (R52), its guard apart. -/
def tick (s : State) : State :=
  { s with now := s.now + 1, ir.tcnt := if s.ir.ten then s.ir.tcnt + 1 else s.ir.tcnt }

/-- `DEV_DRIVE(c, d)` (R144). -/
def devDrive (clk dat : Option Bool) (s : State) : State := setLines none none clk dat s

/-- `RESET` (R340, R341): every register of R54 takes its value there; the unspecified registers and the ring's slots
take the values drawn (R342); the device's drivers, the parameters and the schedule are not the core's to reset (R343,
log entry 11). -/
def resetTo (d : ResetDraw) (slots : Nat → Byte) (s : State) : State :=
  { State.reset with
    cfg := s.cfg
    now := d.now
    lines := { State.reset.lines with dclk := s.lines.dclk, ddat := s.lines.ddat }
    rx := { State.reset.rx with acc := d.acc, last := d.last }
    ring := { State.reset.ring with buf := memOfFn slots (ringCap s.cfg) }
    wr := { State.reset.wr with wbyte := d.wbyte, esc := d.esc, wt0 := d.wt0 }
    osc := oscAt s.cfg d.now d.osc d.oscPhase
    sched := s.sched
    draws := s.draws + 1 }

/-- `RESET` with the free values number `draws`. -/
def resetEvent (s : State) : State := resetTo (Config.freeReset s.draws) (Config.freeSlot s.draws) s

end Sys2Proof.Machine
end

