-- ==== Sys2Proof/Machine/Mouse.lean ====
section
/-! DEFINITION. The companion mouse state decoder, host software that uses the commands RXCNT and RXPOP only
(43_mouse_decoder.md). One event is one command of the function, so that other agents may act between two of them (log
entry 16). -/

namespace Sys2Proof.Machine

/-- The alignment test of a status byte (R223). -/
def aligned (p : Params) (status : Byte) : Bool := decide (status &&& p.lit.alignMask = p.alignValue)

/-- The overflow test of a status byte (R225). -/
def overflowed (status : Byte) : Bool := status.getLsbD 6 || status.getLsbD 7

/-- A delta byte with its sign bit, as a nine-bit two's complement number (R225). -/
def delta (sign : Bool) (b : Byte) : Int := b.toNat - (if sign then 256 else 0)

/-- The returned mask: bits 1:0 the buttons, 2 UP, 3 DOWN, 4 LEFT, 5 RIGHT (R226). -/
def moveMask (btn : BitVec 2) (dx dy : Int) : BitVec 6 :=
  BitVec.ofBool (decide (0 < dx)) ++ BitVec.ofBool (decide (dx < 0)) ++ BitVec.ofBool (decide (0 < dy)) ++
    BitVec.ofBool (decide (dy < 0)) ++ btn

/-- The call ends with the buttons kept and no direction (R226). -/
def mouseKeep (m : MouseHost) : MouseHost := { m with phase := .idle, mask := 0#4 ++ m.btn }

/-- The call ends with an aligned packet (R225). -/
def mousePacket (status x y : Byte) (m : MouseHost) : MouseHost :=
  if overflowed status then mouseKeep m
  else
    let btn : BitVec 2 := status.extractLsb' 0 2
    { btn := btn, phase := .idle, mask := moveMask btn (delta (status.getLsbD 4) x) (delta (status.getLsbD 5) y) }

/-- The next command of `MOUSE_DECODE` and what the function does with its response (R227). -/
def mouseStep (s : State) : State :=
  match s.mouse.phase with
  | .idle =>
    let t := rxcnt s
    if t.resp.toNat < 3 then { t with mouse := mouseKeep t.mouse } else { t with mouse.phase := .needStatus }
  | .needStatus =>
    let t := rxpop s
    if aligned t.cfg (respLow t.resp) then { t with mouse.phase := .needX (respLow t.resp) }
    else { t with mouse := mouseKeep t.mouse }
  | .needX status =>
    let t := rxpop s
    { t with mouse.phase := .needY status (respLow t.resp) }
  | .needY status x =>
    let t := rxpop s
    { t with mouse := mousePacket status x (respLow t.resp) t.mouse }

end Sys2Proof.Machine
end

