-- ==== Sys2Proof/Machine/Schedule.lean ====
section
/-! DEFINITION. One scheduled event as one atomic step (00_scope.md R3, R11; 20_memory.md R79, R82), and the choice
of the event. -/

namespace Sys2Proof.Machine

/-- A step is taken only where its guard holds; else the agent takes none (log entry 7). -/
def whenEnabled (guard : State → Bool) (effect : State → State) (s : State) : State :=
  if guard s then effect s else s

/-- A step of the writer that needs it in the state `ws` (R187). -/
def whenWriter (ws : WState) (effect : State → State) (s : State) : State :=
  whenEnabled (fun s => decide (s.wr.ws = ws)) effect s

/-- The `TICK` that had to wait stands first in the schedule again. -/
def holdTick (s : State) : State := { s with sched := .tick :: s.sched }

/-- A scheduled `TICK`: an enabled urgent step goes first and the `TICK` waits for it (R11, R118; the order of two
urgent steps is free by R308, log entry 8). Toggles of the oscillator that fall in the microsecond that ends happen
before it ends, so that `OSC` is the square wave of R252 (log entry 14). -/
def tickOrUrgent (s : State) : State :=
  if rxServiceEnabled s then holdTick (rxService s)
  else if irFireEnabled s then holdTick (irFire s)
  else tick (oscSettle (oscTogglesAtOnce s.cfg) s)

/-- One event, carried out on the state whose schedule no longer holds it. -/
def runEvent (e : Event) (s : State) : Result :=
  match e with
  | .host cw => exec (decode cw) s
  | .rxDrain => .next (rxDrainTurn s)
  | .mouseDecode => .next (mouseStep s)
  | .tick => .next (tickOrUrgent s)
  | .devDrive clk dat => .next (devDrive clk dat s)
  | .rxService => .next (whenEnabled rxServiceEnabled rxService s)
  | .wReqDone => .next (whenEnabled wReqDoneEnabled wReqDone s)
  | .wRtsDone => .next (whenEnabled wRtsDoneEnabled wRtsDone s)
  | .wPollLow => .next (whenWriter .wl wPollLow s)
  | .wPollHigh => .next (whenWriter .wh wPollHigh s)
  | .wPollAckL => .next (whenWriter .al wPollAckL s)
  | .wPollAckH => .next (whenWriter .ah wPollAckH s)
  | .irFire => .next (whenEnabled irFireEnabled irFire s)
  | .oscStep => .next (whenEnabled oscStepEnabled oscStep s)
  | .reset => .next (resetEvent s)

/-- The event that comes next: the head of the schedule, and a free value where the schedule has ended (log entry 6). -/
def nextEvent (s : State) : Event :=
  match s.sched with
  | e :: _ => e
  | [] => Config.freeEvent s.draws

/-- The state once the next event is chosen. -/
def takeEvent (s : State) : State :=
  match s.sched with
  | _ :: rest => { s with sched := rest }
  | [] => { s with draws := s.draws + 1 }

/-- One step of the machine; parameters outside the spec are refused (U4, log entry 19). -/
def stepBody (s : State) : Result :=
  if s.cfg.wf then runEvent (nextEvent s) (takeEvent s) else .refused .parametersOutsideSpec

/-- The command word `w` of `nbits` bits, put where `step` takes its next event (log entry 10). -/
def scheduleWord (nbits w : Nat) (s : State) : State :=
  { s with sched := .host (BitVec.ofNat 16 (w % 2 ^ nbits)) :: s.sched }

end Sys2Proof.Machine
end

