-- ==== Sys2Proof/Machine/Step.lean ====
section
/-! DEFINITION. The step function and the place of the next command word; both call Machine/Schedule.lean. -/

namespace Sys2Proof.Machine

/-- One atomic step of one agent. -/
def step (s : State) : Host.Outcome State Fault Refusal := stepBody s

/-- `s` with the command word `w` as the next event of its schedule. The core has no fetch (R88): a command comes
from the HOST agent (log entry 10). -/
def State.withFetchWord (s : State) (nbits w : Nat) : State := scheduleWord nbits w s

end Sys2Proof.Machine
end

