-- ==== Sys2Proof/Machine/Script.lean ====
section
/-! DEFINITION. The script language of the spec's programs as lists of events (30_encoding.md R116 to R118). -/

namespace Sys2Proof.Machine

/-- One line of a script: a command, the host loop `RXDRAIN` (R117), or a directive for the environment (R118). -/
inductive ScriptLine where
  | cmd (line : AsmLine)
  | rxDrain
  | wait (n : Nat)
  | dev (clk dat : Option Bool)
  | edge (d : Bool)
  | frame (b : Byte)
  deriving DecidableEq, Repr

/-- `WAIT n`: `n` `TICK` steps, with any urgent steps they enable (R118). A `TICK` that finds an urgent step enabled
lets it go first; the one urgent step that the last `TICK` may have enabled is `IR_FIRE`. -/
def waitEvents : Nat → List Event
  | 0 => []
  | n + 1 => List.replicate (n + 1) .tick ++ [.irFire]

/-- `EDGE d` (R118). -/
def edgeEvents (d : Bool) : List Event :=
  [.devDrive none (some d), .devDrive (some false) none] ++ waitEvents Config.halfPeriod ++
    [.devDrive (some true) none] ++ waitEvents Config.halfPeriod

/-- `FRAME b`: an `EDGE` for each of the eleven slots, then the data line released (R118). -/
def frameEvents (b : Byte) : List Event := (frameSlots b).flatMap edgeEvents ++ [.devDrive none (some true)]

/-- The events of one line. -/
def ScriptLine.events : ScriptLine → List Event
  | .cmd l => [.host (assemble l)]
  | .rxDrain => [.rxDrain]
  | .wait n => waitEvents n
  | .dev clk dat => [.devDrive clk dat]
  | .edge d => edgeEvents d
  | .frame b => frameEvents b

/-- The schedule of a script. -/
def scriptEvents (p : List ScriptLine) : List Event := p.flatMap ScriptLine.events

end Sys2Proof.Machine
end

