-- ==== Sys2Proof/Safety.lean ====
section
/-! DEFINITION. What counts as a good state of the core (the invariants the spec states of every reachable state), and
the words in which claims about several steps are made. -/

namespace Sys2Proof.Machine

/-- The indices have `RB_LOG2` bits, and only slots of the ring are listed, in canonical form (R31 to R34, R77). -/
abbrev RingInv (s : State) : Prop :=
  s.ring.head &&& ringMask s.cfg = s.ring.head ∧ s.ring.tail &&& ringMask s.cfg = s.ring.tail ∧
    Memory.wf s.ring.buf = true ∧ ∀ c ∈ s.ring.buf, c.1 < ringCap s.cfg

/-- `BITCNT` stays below the frame length, 0 to 10 with the source's 11 (R27). -/
abbrev RxInv (s : State) : Prop := s.rx.bitcnt < s.cfg.lit.rxFrameLen

/-- A wait state of the writer (R187). -/
def waiting (ws : WState) : Bool :=
  match ws with
  | .wl | .wh | .al | .ah => true
  | .idle | .req | .rts => false

/-- The data level that stands while the writer waits for the low level of slot `i`: the request level before the first
slot, then the level of the slot before (R182). -/
def levelBefore (b : Byte) (i : Fin 10) : Bool := if i.val = 0 then false else slotLevel b (i - 1)

/-- The writer's registers and the core's drivers agree with the sequence of R182: the receive interrupt is masked for
the whole handshake, the clock is held low in the two holds and nowhere else, the data line shows the slot's level, and
the escape counter of a wait is between 1 and the budget (R188). -/
abbrev WriterInv (s : State) : Prop :=
  (s.wr.ws ≠ .idle → s.edge.rxie = false) ∧
  (s.lines.hclk = false ↔ s.wr.ws = .req ∨ s.wr.ws = .rts) ∧
  (s.wr.ws = .req ∨ s.wr.ws = .rts → s.wr.wi = 0) ∧
  (s.wr.ws = .rts → s.lines.hdat = false) ∧
  (s.wr.ws = .wl → s.lines.hdat = levelBefore s.wr.wbyte s.wr.wi) ∧
  (s.wr.ws = .wh → s.lines.hdat = slotLevel s.wr.wbyte s.wr.wi) ∧
  (s.wr.ws = .al ∨ s.wr.ws = .ah → s.wr.wi = 9 ∧ s.lines.hdat = true) ∧
  (waiting s.wr.ws = true → 1 ≤ s.wr.esc ∧ s.wr.esc ≤ s.cfg.escBudget)

/-- The phases during which a pulse is on the wire: the phase names the next firing (R245), so these are the start
pulses, the end pulse and the even sub-phases (R109). -/
def pulsePhase (ph : BitVec 6) : Bool :=
  decide (ph = phStart) || decide (ph = phRepeat) || decide (ph = phStop) ||
    (decide (2 ≤ ph.toNat) && decide (ph.toNat ≤ 48) && decide (ph.toNat % 2 = 0))

/-- The durations the engine programs (R246). -/
def durations (l : Literals) : List Word := [l.tStart, l.tGapCode, l.tGapRpt, l.tPulse, l.tZero, l.tOne]

/-- The infrared registers: a stored phase is 0 to 52 (R42), the timer runs iff the phase is not `IDLE` (R45), the
gate shows the interval on the wire (R46), the counter has not passed the deadline and the deadline is a programmed
duration (R361), and bits 15:12 of `SR` are 0 before the complement and 1 after it (R247). -/
abbrev IrInv (s : State) : Prop :=
  s.ir.ph ≤ phRepeat ∧ (s.ir.ten = true ↔ s.ir.ph ≠ phIdle) ∧ s.ir.gate = pulsePhase s.ir.ph ∧
  (s.ir.ten = true → s.ir.tcnt ≤ s.ir.ocr ∧ s.ir.ocr ∈ durations s.cfg.lit) ∧
  (s.ir.ph.toNat ≤ s.cfg.lit.complAt → s.ir.sr.extractLsb' 12 4 = 0x0) ∧
  (s.cfg.lit.complAt < s.ir.ph.toNat → s.ir.ph.toNat ≤ Config.nSub → s.ir.sr.extractLsb' 12 4 = 0xF)

/-- The oscillator is within one hold time of its level of the next toggle, counted from the microsecond of the last one
(R47, R252). -/
abbrev OscInv (s : State) : Prop :=
  s.osc.frac < oscUnit s.cfg ∧
    (s.osc.due - s.now).toNat * oscUnit s.cfg + s.osc.frac < oscHold s.cfg s.osc.level + oscUnit s.cfg

/-- A good state: parameters within R8 and the five invariants. -/
abbrev Inv (s : State) : Prop := s.cfg.wf = true ∧ RingInv s ∧ RxInv s ∧ WriterInv s ∧ IrInv s ∧ OscInv s

/-- The entries of the ring, oldest first (R34). -/
def ringEntries (p : Params) (r : Ring) : List Byte :=
  (List.range (ringCount p r).toNat).map fun i => memRead r.buf (ringSlot p (r.head + BitVec.ofNat 16 i))

/-- What the outside sees (R18): the response word, the core's drive of the two lines, the envelope. -/
def observed (s : State) : Word × Bool × Bool × Bool := (s.resp, s.lines.hclk, s.lines.hdat, s.ir.gate)

/-- The interval on the wire and the ones the next firings begin: `n` intervals from engine state `e` (R245). -/
def envelope (p : Params) : Nat → IrEngine → List Interval
  | 0, _ => []
  | n + 1, e => (e.gate, e.ocr.toNat) :: envelope p n (fireIr p e)

/-- The engine after `n` firings. -/
def firings (p : Params) : Nat → IrEngine → IrEngine
  | 0, e => e
  | n + 1, e => firings p n (fireIr p e)

/-- The time a list of intervals lasts. -/
def totalTime (l : List Interval) : Nat := (l.map Prod.snd).sum

/-- `n` `TICK`s in a row, urgent steps apart. -/
def ticks : Nat → State → State
  | 0, s => s
  | n + 1, s => ticks n (tick s)

/-- `gap` microseconds later the device raises its clock and drives it low again with `d` on the data line, and the
edge is serviced in the same microsecond if the receive interrupt is enabled (R151). -/
def sampleAfter (d : Bool) (gap : Micros) (s : State) : State :=
  whenEnabled rxServiceEnabled rxService
    (devDrive (some false) (some d) (devDrive (some true) none { s with now := s.now + gap }))

/-- A list of samples, each a data level and the time since the sample before. -/
def samples (l : List (Bool × Micros)) (s : State) : State := l.foldl (fun s x => sampleAfter x.1 x.2 s) s

/-- One clock pulse of the device seen by the polls of one bit slot (R189, R192): low, polled; high, polled. -/
def slotPulse (s : State) : State := wPollHigh (devDrive (some true) none (wPollLow (devDrive (some false) none s)))

/-- The levels of the data driver after the low poll of each of `n` slots. -/
def slotLevels : Nat → State → List Bool
  | 0, _ => []
  | n + 1, s => (wPollLow (devDrive (some false) none s)).lines.hdat :: slotLevels n (slotPulse s)

/-- The waits still to come after the one in progress, of the 22 of a write (R182). -/
def waitsAfter (w : Writer) : Nat :=
  match w.ws with
  | .wl => 21 - 2 * w.wi.val
  | .wh => 20 - 2 * w.wi.val
  | .al => 1
  | .ah | .idle | .req | .rts => 0

/-- A bound on the polls a write still makes (R197). -/
def pollsLeft (s : State) : Nat :=
  if waiting s.wr.ws then s.wr.esc + waitsAfter s.wr * s.cfg.escBudget else 0

/-- The poll of the wait state the writer is in; no step outside one. -/
def pollStep (s : State) : State :=
  match s.wr.ws with
  | .wl => wPollLow s
  | .wh => wPollHigh s
  | .al => wPollAckL s
  | .ah => wPollAckH s
  | .idle | .req | .rts => s

/-- The values R54 gives the registers after reset. -/
abbrev ResetValues (s : State) : Prop :=
  s.lines.hclk = true ∧ s.lines.hdat = true ∧ s.edge = { rxie := false, rxif := false } ∧ s.rx.bitcnt = 0 ∧
  s.ring.head = 0 ∧ s.ring.tail = 0 ∧ s.wr.ws = .idle ∧ s.wr.wi = 0 ∧
  s.ir = { ph := phIdle, sr := 0, tcnt := 0, ocr := 0, ten := false, gate := false } ∧
  s.flags = { ovf := false, rsy := false, wto := false, ill := false, wok := false } ∧ s.mouse.btn = 0

/-- Two states that agree in all that R342 calls fixed after reset, and in the registers it calls unspecified only as
far as they have been written since: the top `BITCNT` bits of `ACC` (all of it from the eighth sample on), the time since the last sample of a frame in
progress, the live entries of the ring, the writer's registers while a write runs. `NOW` may differ. -/
structure AgreeWhereSpecified (s t : State) : Prop where
  cfg : s.cfg = t.cfg
  lines : s.lines = t.lines
  edge : s.edge = t.edge
  bitcnt : s.rx.bitcnt = t.rx.bitcnt
  acc : s.rx.acc >>> (8 - s.rx.bitcnt.toNat) = t.rx.acc >>> (8 - s.rx.bitcnt.toNat)
  last : s.rx.bitcnt ≠ 0 → elapsed s.now s.rx.last = elapsed t.now t.rx.last
  head : s.ring.head = t.ring.head
  tail : s.ring.tail = t.ring.tail
  entries : ringEntries s.cfg s.ring = ringEntries t.cfg t.ring
  ws : s.wr.ws = t.wr.ws
  wi : s.wr.wi = t.wr.wi
  wbyte : s.wr.ws ≠ .idle → s.wr.wbyte = t.wr.wbyte
  esc : waiting s.wr.ws = true → s.wr.esc = t.wr.esc
  wt0 : s.wr.ws = .req ∨ s.wr.ws = .rts → elapsed s.now s.wr.wt0 = elapsed t.now t.wr.wt0
  ir : s.ir = t.ir
  flags : s.flags = t.flags
  mouse : s.mouse = t.mouse
  resp : s.resp = t.resp
  sched : s.sched = t.sched
  draws : s.draws = t.draws

end Sys2Proof.Machine
end

