-- ==== Sys2Proof/Certificates/Slice0/Obligations.lean ====
section
/-! DEFINITION. The statements for the provers. Each docstring names the rules of spec/ that its statement formalises. -/

open Sys2Proof Sys2Proof.Machine

/-! ### The command word -/

/-- R111 to R113: the decoder reads back every command with every operand from the word the encoder writes. -/
def Obligations.DecodeInvertsEncode : Prop := ∀ i : Instr, decode (encode i) = i

/-- R112: the operand of each command is the field named there, and the ignored bits of a word do not change the
command. Re-encoding a decoded word keeps the opcode and every operand bit. -/
def Obligations.OperandsAreReadAndIgnoredBitsAreIgnored : Prop :=
  (∀ w : Word, opField w = 0x1 → decode w = .irsend (w.extractLsb' 0 12)) ∧
  (∀ w : Word, opField w = 0x3 → decode w = .ps2wr (w.extractLsb' 0 8)) ∧
  (∀ w : Word, opField w = 0x7 → decode w = .clrf (w.extractLsb' 4 5)) ∧
  (∀ w : Word, opField w = 0x8 → decode w = .rxen (w.getLsbD 0)) ∧
  (∀ w : Word, (opField w = 0x0 → decode w = .nop) ∧ (opField w = 0x2 → decode w = .irrpt) ∧
    (opField w = 0x4 → decode w = .rxpop) ∧ (opField w = 0x5 → decode w = .rxcnt) ∧
    (opField w = 0x6 → decode w = .rdst)) ∧
  (∀ w v : Word, opField w = opField v →
    argField w &&& careArg (opField w) = argField v &&& careArg (opField w) → decode w = decode v) ∧
  (∀ w : Word, encode (decode w) = opField w ++ (argField w &&& careArg (opField w)))

/-- R113, R114: every one of the 65536 words selects exactly one row of the opcode map, and it is the row of the
command that the decoder reads. -/
def Obligations.EveryWordSelectsExactlyOneRow : Prop :=
  ∀ w : Word, ∃ r ∈ opcodeMap, w &&& r.mask = r.value ∧ r.mnemonic = (decode w).mnemonic ∧
    ∀ q ∈ opcodeMap, w &&& q.mask = q.value → q = r

/-- R116: the example words of the assembler, R112 and R287's examples with ignored bits set. -/
def Obligations.ExampleWordsDecode : Prop :=
  decode 0x0ABC = .nop ∧ decode 0x1A5C = .irsend 0xA5C ∧ decode 0x2ABC = .irrpt ∧ decode 0x3AF4 = .ps2wr 0xF4 ∧
  decode 0x4FFF = .rxpop ∧ decode 0x5123 = .rxcnt ∧ decode 0x6FFF = .rdst ∧ decode 0x71F0 = .clrf 0x1F ∧
  decode 0x8FFE = .rxen false ∧ decode 0x8003 = .rxen true ∧ decode 0x9000 = .reserved9 ∧ decode 0xF123 = .reservedF

/-- R116, R117: every well-formed line assembles to a word that decodes to the command it names, with the numeral as
operand (for CLRF the numeral is the whole operand field, the flags at bits 8:4). -/
def Obligations.AssembledLinesDecode : Prop :=
  (∀ n, n < 4096 → decode (assemble (.irsend n)) = .irsend (BitVec.ofNat 12 n)) ∧
  (∀ n, n < 256 → decode (assemble (.ps2wr n)) = .ps2wr (BitVec.ofNat 8 n)) ∧
  (∀ n, n < 4096 → decode (assemble (.clrf n)) = .clrf (BitVec.ofNat 5 (n / 16))) ∧
  decode (assemble (.rxen 0)) = .rxen false ∧ decode (assemble (.rxen 1)) = .rxen true ∧
  decode (assemble .nop) = .nop ∧ decode (assemble .irrpt) = .irrpt ∧ decode (assemble .rxpop) = .rxpop ∧
  decode (assemble .rxcnt) = .rxcnt ∧ decode (assemble .rdst) = .rdst ∧
  decode (assemble .rxon) = .rxen true ∧ decode (assemble .rxoff) = .rxen false ∧
  decode (assemble .clrall) = .clrf 0x1F

/-! ### Steps -/

/-- R280: when the next event is the host's word `cw`, the step is the meaning of the command it decodes to, on the
state whose schedule no longer holds the word. The schedule is the model's (log entry 6). -/
def Obligations.StepRunsTheScheduledCommand : Prop :=
  ∀ (s : State) (cw : Word) (i : Instr) (rest : List Event),
    s.cfg.wf = true → s.sched = .host cw :: rest → decode cw = i → step s = exec i { s with sched := rest }

/-- The word put where the next event is taken is the command the next step runs (log entry 10). -/
def Obligations.FetchWordIsTheNextCommand : Prop :=
  ∀ (s : State) (w : Nat), s.cfg.wf = true → w < 65536 →
    step (s.withFetchWord 16 w) = exec (decode (BitVec.ofNat 16 w)) s ∧
      decodeTableWord 16 w = some (decode (BitVec.ofNat 16 w))

/-- R300: no operation of any agent fails to complete. Parameters outside R8 are refused (U4, log entry 19). -/
def Obligations.EveryStepCompletes : Prop :=
  (∀ s : State, s.cfg.wf = true → ∃ t, step s = .next t) ∧
  (∀ s : State, s.cfg.wf = false → step s = .refused .parametersOutsideSpec)

/-- The literals of the source are those of R8 in the reset state, and no step changes a parameter (R8, R9, U24). -/
def Obligations.TheParametersAreFixed : Prop :=
  State.reset.cfg.lit =
    { tResync := 5000, rxPushAt := 9, rxFrameLen := 11, tStart := 9000, tGapCode := 4500, tGapRpt := 2100,
      tPulse := 400, tZero := 400, tOne := 1200, complAt := 25, alignMask := 0x0C } ∧
  ∀ s t : State, step s = .next t → t.cfg = s.cfg

/-! ### Host system commands -/

/-- R281, for the constructor and for every word of opcode 0. -/
def Obligations.NopWritesNothing : Prop :=
  (∀ s : State, exec .nop s = .next { s with resp := 0x0000 }) ∧ ∀ w : Word, opField w = 0x0 → decode w = .nop

/-- R282 with the layout of R51. -/
def Obligations.RdstAnswersStatus : Prop :=
  (∀ w : Word, opField w = 0x6 → decode w = .rdst) ∧ ∀ s : State, ∃ v : Word, exec .rdst s = .next { s with resp := v } ∧
    v.getLsbD 0 = decide (s.ring.head ≠ s.ring.tail) ∧ v.getLsbD 1 = s.edge.rxie ∧
    v.getLsbD 2 = decide (s.wr.ws ≠ .idle) ∧ v.getLsbD 3 = s.ir.ten ∧ v.getLsbD 4 = s.flags.ovf ∧
    v.getLsbD 5 = s.flags.rsy ∧ v.getLsbD 6 = s.flags.wto ∧ v.getLsbD 7 = s.flags.ill ∧
    v.getLsbD 8 = s.flags.wok ∧ v.getLsbD 9 = s.ir.gate ∧ v.getLsbD 10 = (s.lines.hclk && s.lines.dclk) ∧
    v.getLsbD 11 = (s.lines.hdat && s.lines.ddat) ∧ v.extractLsb' 12 4 = 0x0

/-- R283, for the constructor and for every word of opcode 7. -/
def Obligations.ClrfClearsTheMaskedFlags : Prop :=
  (∀ (mask : BitVec 5) (s : State), exec (.clrf mask) s = .next { s with
      resp := 0x0000
      flags := { ovf := if mask.getLsbD 0 then false else s.flags.ovf
                 rsy := if mask.getLsbD 1 then false else s.flags.rsy
                 wto := if mask.getLsbD 2 then false else s.flags.wto
                 ill := if mask.getLsbD 3 then false else s.flags.ill
                 wok := if mask.getLsbD 4 then false else s.flags.wok } }) ∧
  (∀ (w : Word) (s : State), opField w = 0x7 → exec (decode w) s = .next { s with
      resp := 0x0000
      flags := { ovf := if w.getLsbD 4 then false else s.flags.ovf
                 rsy := if w.getLsbD 5 then false else s.flags.rsy
                 wto := if w.getLsbD 6 then false else s.flags.wto
                 ill := if w.getLsbD 7 then false else s.flags.ill
                 wok := if w.getLsbD 8 then false else s.flags.wok } })

/-- R287, for the seven constructors and for every word of the seven opcodes. -/
def Obligations.ReservedWordsSetIllOnly : Prop :=
  (∀ (i : Instr) (s : State),
    i ∈ [Instr.reserved9, .reservedA, .reservedB, .reservedC, .reservedD, .reservedE, .reservedF] →
    exec i s = .next { s with flags.ill := true, resp := 0x0000 }) ∧
  (∀ (w : Word) (s : State), 0x9 ≤ opField w →
    exec (decode w) s = .next { s with flags.ill := true, resp := 0x0000 })

/-! ### Host commands on the ring and the receive enable -/

/-- R160 and R161: on a ring with entries the byte at `HEAD` and the advance of `HEAD`; on an empty ring no change. -/
def Obligations.RxpopAnswersTheSlotAtHead : Prop :=
  (∀ w : Word, opField w = 0x4 → decode w = .rxpop) ∧ ∀ s : State,
    (s.ring.head = s.ring.tail → exec .rxpop s = .next { s with resp := 0x0000 }) ∧
    (s.ring.head ≠ s.ring.tail → exec .rxpop s = .next { s with
      resp := 0x8000 ||| (bufRead (s.ring.head &&& ringMask s.cfg).toNat s).zeroExtend 16
      ring.head := (s.ring.head + 1) &&& ringMask s.cfg })

/-- R162: the count modulo `CAP`, never above `CAP - 1`; nothing but the response is written. -/
def Obligations.RxcntAnswersACountBelowCapacity : Prop :=
  (∀ w : Word, opField w = 0x5 → decode w = .rxcnt) ∧ ∀ s : State,
    exec .rxcnt s = .next { s with resp := (s.ring.tail - s.ring.head) &&& ringMask s.cfg } ∧
      ((s.ring.tail - s.ring.head) &&& ringMask s.cfg).toNat ≤ 2 ^ s.cfg.rbLog2 - 1

/-- R164. -/
def Obligations.RxenEnablesWithAClearLatch : Prop :=
  (∀ w : Word, opField w = 0x8 → decode w = .rxen (w.getLsbD 0)) ∧ ∀ (en : Bool) (s : State),
    (s.wr.ws ≠ .idle → exec (.rxen en) s = .next { s with resp := 0x0000 }) ∧
    (s.wr.ws = .idle → en = true →
      exec (.rxen en) s = .next { s with edge := { rxie := true, rxif := false }, resp := 0x0001 }) ∧
    (s.wr.ws = .idle → en = false →
      exec (.rxen en) s = .next { s with edge := { rxie := false, rxif := s.edge.rxif }, resp := 0x0001 })

/-! ### The command PS2WR and the arms -/

/-- R184. -/
def Obligations.Ps2wrStartsAWriteOrIsRejected : Prop :=
  (∀ w : Word, opField w = 0x3 → decode w = .ps2wr (w.extractLsb' 0 8)) ∧ ∀ (byte : Byte) (s : State),
    (s.wr.ws ≠ .idle → exec (.ps2wr byte) s = .next { s with resp := 0x0000 }) ∧
    (s.wr.ws = .idle → exec (.ps2wr byte) s = .next { s with
      wr := { s.wr with ws := .req, wi := 0, wbyte := byte, wt0 := s.now }
      flags.wok := false
      lines.hclk := false
      edge := { rxie := false, rxif := s.edge.rxif || (s.lines.hclk && s.lines.dclk) }
      resp := 0x0001 })

/-- R242, with `T_START` for its 9000 and the value of R8 (U24). -/
def Obligations.IrsendArmsACodeFrame : Prop :=
  (∀ w : Word, opField w = 0x1 → decode w = .irsend (w.extractLsb' 0 12)) ∧ ∀ (code : BitVec 12) (s : State),
    (code = 0 → exec (.irsend code) s = .next { s with resp := 0x0000 }) ∧
    (code ≠ 0 → exec (.irsend code) s = .next { s with
      ir := { sr := code.zeroExtend 16, ph := 0, tcnt := 0, ocr := s.cfg.lit.tStart, gate := true, ten := true }
      resp := 0x0001 }) ∧
    Literals.d00.tStart = 9000

/-- R243, with `T_START` for its 9000 and the value of R8 (U24). -/
def Obligations.IrrptArmsARepeatFrame : Prop :=
  (∀ w : Word, opField w = 0x2 → decode w = .irrpt) ∧ Literals.d00.tStart = 9000 ∧ ∀ s : State, exec .irrpt s = .next { s with
    ir := { sr := s.ir.sr, ph := 52, tcnt := 0, ocr := s.cfg.lit.tStart, gate := true, ten := true }
    resp := 0x0001 }

/-- The rows of R314 for the HOST agent: what each command leaves unchanged. Only RXPOP moves `HEAD`, only PS2WR touches
the writer and the clock driver, only PS2WR and RXEN touch the edge interrupt, only the arms touch the infrared
registers, only CLRF, PS2WR and the reserved words touch flags; no command stores to the ring. -/
def Obligations.HostCommandFrame : Prop :=
  ∀ (i : Instr) (s t : State), exec i s = .next t →
    t.cfg = s.cfg ∧ t.now = s.now ∧ t.rx = s.rx ∧ t.osc = s.osc ∧ t.mouse = s.mouse ∧ t.sched = s.sched ∧
    t.draws = s.draws ∧ t.ring.tail = s.ring.tail ∧ (∀ a, bufRead a t = bufRead a s) ∧
    t.lines.hdat = s.lines.hdat ∧ t.lines.dclk = s.lines.dclk ∧ t.lines.ddat = s.lines.ddat ∧
    (i ≠ .rxpop → t.ring.head = s.ring.head) ∧
    ((∀ b, i ≠ .ps2wr b) → t.wr = s.wr ∧ t.lines.hclk = s.lines.hclk) ∧
    ((∀ b, i ≠ .ps2wr b) → (∀ en, i ≠ .rxen en) → t.edge = s.edge) ∧
    ((∀ code, i ≠ .irsend code) → i ≠ .irrpt → t.ir = s.ir) ∧
    ((∀ b, i ≠ .ps2wr b) → (∀ m, i ≠ .clrf m) → ¬ 0x9 ≤ i.op → t.flags = s.flags) ∧
    ((∃ b, i = .ps2wr b) → t.flags = { s.flags with wok := t.flags.wok }) ∧
    (0x9 ≤ i.op → t.flags = { s.flags with ill := true })

/-! ### Lines and edges -/

/-- R143 with the line value of R142: drivers change together, a falling edge of `CLK` latches, nothing else does. -/
def Obligations.FallingClockEdgesAreLatched : Prop :=
  ∀ (a b c d : Option Bool) (s : State),
    ∃ l : Lines, l.hclk = a.getD s.lines.hclk ∧ l.hdat = b.getD s.lines.hdat ∧ l.dclk = c.getD s.lines.dclk ∧
      l.ddat = d.getD s.lines.ddat ∧
      ((s.lines.hclk && s.lines.dclk) = true → (l.hclk && l.dclk) = false →
        setLines a b c d s = { s with lines := l, edge.rxif := true }) ∧
      (¬ ((s.lines.hclk && s.lines.dclk) = true ∧ (l.hclk && l.dclk) = false) →
        setLines a b c d s = { s with lines := l })

/-- R144: the device's step, in every state. -/
def Obligations.DevDriveSetsTheDeviceDrivers : Prop :=
  ∀ (c d : Option Bool) (s : State), runEvent (.devDrive c d) s = .next { s with
    lines.dclk := c.getD s.lines.dclk
    lines.ddat := d.getD s.lines.ddat
    edge.rxif := s.edge.rxif || (s.lines.hclk && s.lines.dclk && !(c.getD s.lines.dclk)) }

/-! ### The receive engine -/

/-- R152, R156, R157: the whole effect of RX_SERVICE where its guard holds, with the source's literals by name and the
values of R8 (U24). `c` is the count the sample is added to, after the watchdog. That the event changes nothing where
the guard is false is the model's choice (log entry 7). -/
def Obligations.RxServiceSamplesShiftsAndCounts : Prop :=
  (Literals.d00.tResync = 5000 ∧ Literals.d00.rxPushAt = 9 ∧ Literals.d00.rxFrameLen = 11) ∧
  ∀ s : State,
    ((s.edge.rxie && s.edge.rxif) = false → runEvent .rxService s = .next s) ∧
    ((s.edge.rxie && s.edge.rxif) = true →
      ∃ (late full : Bool) (c : BitVec 4) (acc : Byte),
        late = decide (s.cfg.lit.tResync < s.now - s.rx.last) ∧
        full = decide ((s.ring.tail + 1) &&& ringMask s.cfg = s.ring.head) ∧
        c = (if late then 0 else s.rx.bitcnt) ∧
        acc = (s.rx.acc >>> 1) ||| ((BitVec.ofBool (s.lines.hdat && s.lines.ddat)).zeroExtend 8 <<< 7) ∧
        runEvent .rxService s = .next { s with
          edge.rxif := false
          rx := { acc := acc, bitcnt := if c + 1 = s.cfg.lit.rxFrameLen then 0 else c + 1, last := s.now }
          ring := if c + 1 = s.cfg.lit.rxPushAt ∧ full = false then
              { buf := memWrite s.ring.buf (s.ring.tail &&& ringMask s.cfg).toNat acc
                head := s.ring.head
                tail := (s.ring.tail + 1) &&& ringMask s.cfg }
            else s.ring
          flags.rsy := s.flags.rsy || (late && decide (s.rx.bitcnt ≠ 0))
          flags.ovf := s.flags.ovf || (decide (c + 1 = s.cfg.lit.rxPushAt) && full) })

/-- R303, for any literals the model admits (log entry 19): one RX_SERVICE raises at most one of `RSY` and `OVF`. -/
def Obligations.OneServiceRaisesAtMostOneCause : Prop :=
  ∀ s : State, s.cfg.wf = true → s.flags.rsy = false → s.flags.ovf = false →
    ¬ ((rxService s).flags.rsy = true ∧ (rxService s).flags.ovf = true)

/-- R154: after nine samples counted from 0, bit `i` of `ACC` is the level of sample `i + 2`, and that byte is the one
pushed on a ring that is not full. The counts are those of R8, the gap is `T_RESYNC`. -/
def Obligations.NineSamplesFormTheByte : Prop :=
  ∀ (s : State) (d : Fin 9 → Bool) (g : Fin 9 → Micros),
    s.cfg.lit.rxPushAt = 9 → s.cfg.lit.rxFrameLen = 11 →
    s.edge.rxie = true → s.lines.hclk = true → s.lines.hdat = true → s.rx.bitcnt = 0 →
    (∀ i, 0 < i.val → g i ≤ s.cfg.lit.tResync) →
    let t := samples (List.ofFn fun k => (d k, g k)) s
    (∀ i : Fin 8, t.rx.acc.getLsbD i.val = d i.succ) ∧
      (ringFull s.cfg s.ring = false → t.ring = ringPush s.cfg t.rx.acc s.ring)

/-- R165: eleven edges that carry `b` in slots 2 to 9, with any levels in slots 1, 10 and 11 (R159) and gaps of at most
`T_RESYNC`, push exactly one entry, equal to `b`, and end with `BITCNT = 0`. No flag changes. The counts are those of
R8. -/
def Obligations.EveryByteDecodes : Prop :=
  ∀ (s : State) (b : Byte) (start par stop : Bool) (g : List Micros),
    s.cfg.wf = true → s.cfg.lit.rxPushAt = 9 → s.cfg.lit.rxFrameLen = 11 → RingInv s →
    s.edge.rxie = true → s.edge.rxif = false → s.lines.hclk = true → s.lines.hdat = true →
    s.rx.bitcnt = 0 → ringFull s.cfg s.ring = false → g.length = 11 →
    (∀ x ∈ g.tail, x ≤ s.cfg.lit.tResync) →
    let t := samples ((start :: (List.range 8).map (fun k => b.getLsbD k) ++ [par, stop]).zip g) s
    ringEntries t.cfg t.ring = ringEntries s.cfg s.ring ++ [b] ∧ t.rx.bitcnt = 0 ∧ t.flags = s.flags

/-- R166: whatever was counted before, a frame whose first edge comes more than `T_RESYNC` after the last sample decodes
correctly; `RSY` records a discarded partial frame. A full ring drops the byte and records `OVF` (R157). -/
def Obligations.AFrameAfterAGapDecodes : Prop :=
  ∀ (s : State) (b : Byte) (g : List Micros),
    s.cfg.lit.rxPushAt = 9 → s.cfg.lit.rxFrameLen = 11 →
    s.edge.rxie = true → s.lines.hclk = true → s.lines.hdat = true → g.length = 10 →
    (∀ x ∈ g, x ≤ s.cfg.lit.tResync) →
    ∀ g0 : Micros, s.cfg.lit.tResync < s.now + g0 - s.rx.last →
    let t := samples ((frameSlots b).zip (g0 :: g)) s
    t.rx.bitcnt = 0 ∧ t.flags.rsy = (s.flags.rsy || decide (s.rx.bitcnt ≠ 0)) ∧
      (ringFull s.cfg s.ring = false → t.ring = ringPush s.cfg b s.ring ∧ t.flags.ovf = s.flags.ovf) ∧
      (ringFull s.cfg s.ring = true → t.ring = s.ring ∧ t.flags.ovf = true)

/-- R156, R157 on the queue of R34: the ninth sample appends the byte as the newest entry, or, on a full ring, leaves
every entry and sets `OVF`; a ring never holds more than `CAP - 1` entries. -/
def Obligations.TheNinthSampleAppendsOrDrops : Prop :=
  ∀ s : State, s.cfg.wf = true → s.cfg.lit.rxPushAt = 9 → s.cfg.lit.rxFrameLen = 11 → RingInv s →
    s.rx.bitcnt = 8 → s.now - s.rx.last ≤ s.cfg.lit.tResync →
    (ringEntries s.cfg s.ring).length ≤ ringCap s.cfg - 1 ∧
    (ringFull s.cfg s.ring = false →
      ringEntries s.cfg (rxService s).ring = ringEntries s.cfg s.ring ++ [(rxService s).rx.acc] ∧
      (rxService s).flags.ovf = s.flags.ovf) ∧
    (ringFull s.cfg s.ring = true →
      (rxService s).ring = s.ring ∧ (rxService s).flags.ovf = true ∧ (rxService s).rx.bitcnt = 9 ∧
      (ringEntries s.cfg s.ring).length = ringCap s.cfg - 1)

/-- R160 on the queue of R34: RXPOP answers the oldest entry and leaves the others in their order. -/
def Obligations.RxpopTakesTheOldestEntry : Prop :=
  ∀ (s : State) (b : Byte) (rest : List Byte), s.cfg.wf = true → RingInv s →
    ringEntries s.cfg s.ring = b :: rest →
    ∃ t, exec .rxpop s = .next t ∧ t.resp = 0x8000 ||| b.zeroExtend 16 ∧ ringEntries t.cfg t.ring = rest ∧
      t = { s with resp := t.resp, ring.head := t.ring.head }

/-- R163: after a count of `n`, each of the next `n` RXPOP answers a valid byte. -/
def Obligations.ACountedByteCanBePopped : Prop :=
  ∀ (s : State) (k : Nat), s.cfg.wf = true → RingInv s → k < (ringCount s.cfg s.ring).toNat →
    respValid (rxpop^[k + 1] s).resp = true

/-- R165 through `step`, with the source's literals: the script `FRAME b` (R118), run on an idle bus with the receive
interrupt enabled and the infrared engine idle, pushes `b` and nothing else, whatever stands behind it in the schedule.
947 steps: 86 for each of eleven edges (an edge's first `TICK` waits for the service) and the last release of the data
line. The count rests on the model's schedule and its rendering of `TICK` (log entries 6, 7 and 8). -/
def Obligations.TheScriptOfAFrameDeliversItsByte : Prop :=
  ∀ (s : State) (b : Byte) (rest : List Event),
    s.cfg.wf = true → s.cfg.lit = .d00 → s.sched = frameEvents b ++ rest → s.edge = { rxie := true, rxif := false } →
    s.lines = { hclk := true, hdat := true, dclk := true, ddat := true } → s.rx.bitcnt = 0 → s.ir.ten = false →
    ringFull s.cfg s.ring = false →
    ∃ t, Host.Core.run Sys2Proof.core 947 s = .next t ∧ t.ring = ringPush s.cfg b s.ring ∧ t.rx.bitcnt = 0 ∧
      t.now = s.now + 880 ∧ t.edge = s.edge ∧ t.lines = s.lines ∧ t.flags = s.flags ∧ t.wr = s.wr ∧ t.ir = s.ir ∧
      t.resp = s.resp ∧ t.mouse = s.mouse ∧ t.sched = rest

/-! ### The command writer -/

/-- R185 and R186: each timed hold ends at or after its bound, with the effect given there. The last two clauses, that
the scheduled step changes nothing where its guard is false, are the model's choice (log entry 7). -/
def Obligations.TimedHoldsEndAtTheirBound : Prop :=
  ∀ s : State,
    (s.wr.ws = .req → s.cfg.tClkReq ≤ s.now - s.wr.wt0 → runEvent .wReqDone s = .next { s with
      lines.hdat := false, wr.wt0 := s.now, wr.ws := .rts }) ∧
    (s.wr.ws = .rts → s.cfg.tRts ≤ s.now - s.wr.wt0 → runEvent .wRtsDone s = .next { s with
      lines.hclk := true, wr.wi := 0, wr.ws := .wl, wr.esc := s.cfg.escBudget }) ∧
    (¬ (s.wr.ws = .req ∧ s.cfg.tClkReq ≤ s.now - s.wr.wt0) → runEvent .wReqDone s = .next s) ∧
    (¬ (s.wr.ws = .rts ∧ s.cfg.tRts ≤ s.now - s.wr.wt0) → runEvent .wRtsDone s = .next s)

/-- R189 with R190: on a low clock the poll places data bit `WI` (0 to 7), the odd parity bit (8), or releases the line
(9); on a high clock it spends one of the budget, and the last one abandons the write with no line changed (R195). -/
def Obligations.PollLowPlacesTheBit : Prop :=
  ∀ s : State, s.wr.ws = .wl →
    ((s.lines.hclk && s.lines.dclk) = false →
      ∃ bit : Bool, (∀ i : Fin 8, s.wr.wi.val = i.val → bit = s.wr.wbyte.getLsbD i.val) ∧
        (s.wr.wi = 8 → bit = ((List.range 8).foldl (fun x k => x ^^ s.wr.wbyte.getLsbD k) true)) ∧
        (s.wr.wi = 9 → bit = true) ∧
        runEvent .wPollLow s = .next { s with lines.hdat := bit, wr.ws := .wh, wr.esc := s.cfg.escBudget }) ∧
    ((s.lines.hclk && s.lines.dclk) = true →
      (1 < s.wr.esc → runEvent .wPollLow s = .next { s with wr.esc := s.wr.esc - 1 }) ∧
      (s.wr.esc = 1 → runEvent .wPollLow s = .next { s with
        wr.esc := 0, wr.ws := .idle, flags.wto := true, edge := { rxie := true, rxif := false } }))

/-- R192: on a high clock the next slot, or after the stop slot the wait for the acknowledgement; on a low clock one of
the budget is spent, and the last one abandons the write (R195). -/
def Obligations.PollHighEndsTheSlot : Prop :=
  ∀ s : State, s.wr.ws = .wh →
    ((s.lines.hclk && s.lines.dclk) = true →
      (∀ i : Fin 10, s.wr.wi.val < 9 → i.val = s.wr.wi.val + 1 →
        runEvent .wPollHigh s = .next { s with wr.wi := i, wr.ws := .wl, wr.esc := s.cfg.escBudget }) ∧
      (s.wr.wi = 9 → runEvent .wPollHigh s = .next { s with wr.ws := .al, wr.esc := s.cfg.escBudget })) ∧
    ((s.lines.hclk && s.lines.dclk) = false →
      (1 < s.wr.esc → runEvent .wPollHigh s = .next { s with wr.esc := s.wr.esc - 1 }) ∧
      (s.wr.esc = 1 → runEvent .wPollHigh s = .next { s with
        wr.esc := 0, wr.ws := .idle, flags.wto := true, edge := { rxie := true, rxif := false } }))

/-- R193 and R194: the two halves of the acknowledgement, the second ending the write with `WOK` and the re-arm of R196;
a poll that does not see its level spends one of the budget, and the last one abandons the write (R195). -/
def Obligations.AcknowledgementEndsTheWrite : Prop :=
  ∀ s : State,
    (s.wr.ws = .al → (s.lines.hdat && s.lines.ddat) = false →
      runEvent .wPollAckL s = .next { s with wr.ws := .ah, wr.esc := s.cfg.escBudget }) ∧
    (s.wr.ws = .ah → (s.lines.hdat && s.lines.ddat) = true →
      runEvent .wPollAckH s = .next { s with
        wr.ws := .idle, flags.wok := true, edge := { rxie := true, rxif := false } }) ∧
    (∀ e : Event,
      (e = .wPollAckL ∧ s.wr.ws = .al ∧ (s.lines.hdat && s.lines.ddat) = true) ∨
      (e = .wPollAckH ∧ s.wr.ws = .ah ∧ (s.lines.hdat && s.lines.ddat) = false) →
      (1 < s.wr.esc → runEvent e s = .next { s with wr.esc := s.wr.esc - 1 }) ∧
      (s.wr.esc = 1 → runEvent e s = .next { s with
        wr.esc := 0, wr.ws := .idle, flags.wto := true, edge := { rxie := true, rxif := false } }))

/-- R187, R195: a device that never responds. The wait survives `ESC - 1` polls and the `ESC`-th abandons the write. -/
def Obligations.AnUnresponsiveDeviceExhaustsTheBudget : Prop :=
  ∀ s : State, s.wr.ws = .wl → (s.lines.hclk && s.lines.dclk) = true → 1 ≤ s.wr.esc →
    (∀ k, k < s.wr.esc → wPollLow^[k] s = { s with wr.esc := s.wr.esc - k }) ∧
    wPollLow^[s.wr.esc] s = { s with
      wr.esc := 0, wr.ws := .idle, flags.wto := true, edge := { rxie := true, rxif := false } }

/-- R198: against ten clock pulses of a device, each level seen by one poll, the data driver shows the eight data bits
least significant first, the parity bit and the released stop level, and the writer then waits for the
acknowledgement. -/
def Obligations.AWritePlacesByteParityAndStop : Prop :=
  ∀ s : State, s.wr.ws = .wl → s.wr.wi = 0 → s.lines.hclk = true →
    slotLevels 10 s = (List.range 8).map (fun k => s.wr.wbyte.getLsbD k) ++ [parity s.wr.wbyte, true] ∧
      (slotPulse^[10] s).wr.ws = .al ∧ (slotPulse^[10] s).lines.hdat = true

/-- R101: the formula of `P(b)`, and that the eight data bits and `P(b)` hold an odd number of ones. -/
def Obligations.ParityIsOdd : Prop :=
  ∀ b : Byte, parity b = (List.range 8).foldl (fun x k => x ^^ b.getLsbD k) true ∧
    (((List.range 8).map fun k => (b.getLsbD k).toNat).sum + (parity b).toNat) % 2 = 1

/-- R197: every poll of a wait lowers the number of polls left, which is at most `22 * ESC_BUDGET` and is exactly that
when the clock is released. -/
def Obligations.TheQuantityOfPollsIsBounded : Prop :=
  (∀ s : State, WriterInv s → waiting s.wr.ws = true →
    pollsLeft (pollStep s) < pollsLeft s ∧ pollsLeft s ≤ 22 * s.cfg.escBudget) ∧
  (∀ s : State, pollsLeft (wRtsDone s) = 22 * s.cfg.escBudget)

/-- R197: while a write runs no step but RESET changes the receive engine, a slot of the ring or `TAIL`. -/
def Obligations.NothingIsReceivedDuringAWrite : Prop :=
  ∀ (e : Event) (s t : State), WriterInv s → s.wr.ws ≠ .idle → e ≠ .reset → runEvent e s = .next t →
    t.rx = s.rx ∧ t.ring.tail = s.ring.tail ∧ ∀ a, bufRead a t = bufRead a s

/-- R351: every step that sets `RXIE` leaves the latch clear, so that no stale edge is decoded. -/
def Obligations.EnablingNeverLeavesAStaleEdge : Prop :=
  ∀ (e : Event) (s t : State), runEvent e s = .next t → s.edge.rxie = false → t.edge.rxie = true →
    t.edge.rxif = false

/-! ### The infrared engine -/

/-- R246, R248: one firing for each value of `PH`, with the source's literals by name and the values of R8 (U24). That
the event changes nothing where the guard is false is the model's choice (log entry 7), and the other bit order is R75's
recorded alternative as the model reads it (log entry 25). -/
def Obligations.AFiringDoesWhatItsPhaseNames : Prop :=
  (Literals.d00.tGapCode = 4500 ∧ Literals.d00.tPulse = 400 ∧ Literals.d00.tOne = 1200 ∧ Literals.d00.tZero = 400 ∧
    Literals.d00.tGapRpt = 2100 ∧ Literals.d00.complAt = 25) ∧
  ∀ s : State,
    (¬ (s.ir.ten = true ∧ s.ir.tcnt = s.ir.ocr) → runEvent .irFire s = .next s) ∧
    (s.ir.ten = true → s.ir.tcnt = s.ir.ocr →
      (s.ir.ph = 0 → runEvent .irFire s = .next { s with
        ir := { s.ir with tcnt := 0, gate := false, ocr := s.cfg.lit.tGapCode, ph := 1 } }) ∧
      (∀ n, n ≤ 47 → n % 2 = 1 → s.ir.ph = BitVec.ofNat 6 n → runEvent .irFire s = .next { s with
        ir := { s.ir with tcnt := 0, gate := true, ocr := s.cfg.lit.tPulse, ph := BitVec.ofNat 6 (n + 1),
                          sr := if n = s.cfg.lit.complAt then ~~~s.ir.sr else s.ir.sr } }) ∧
      (∀ n, 2 ≤ n → n ≤ 48 → n % 2 = 0 → s.ir.ph = BitVec.ofNat 6 n → ∀ b : Bool,
        b = s.ir.sr.getLsbD (if s.cfg.irMsbFirst then 11 - (n / 2 - 1) % 12 else (n / 2 - 1) % 12) →
        runEvent .irFire s = .next { s with
          ir := { s.ir with tcnt := 0, gate := false, ocr := if b then s.cfg.lit.tOne else s.cfg.lit.tZero,
                            ph := BitVec.ofNat 6 (n + 1) } }) ∧
      (s.ir.ph = 49 → runEvent .irFire s = .next { s with
        ir := { s.ir with tcnt := 0, gate := true, ocr := s.cfg.lit.tPulse, ph := 50 } }) ∧
      (s.ir.ph = 50 ∨ s.ir.ph = 51 ∨ 53 ≤ s.ir.ph → runEvent .irFire s = .next { s with
        ir := { s.ir with tcnt := 0, gate := false, ten := false, ph := 51 } }) ∧
      (s.ir.ph = 52 → runEvent .irFire s = .next { s with
        ir := { s.ir with tcnt := 0, gate := false, ocr := s.cfg.lit.tGapRpt, ph := 49 } }))

/-- R104, R105, with R75 and R248 for the order of the bits: from the arm on, the engine puts exactly the 51 intervals of
a code frame on the envelope, for every code but zero, either bit order (log entry 25) and any durations, and the 51st
firing leaves it idle with the complement in `SR`. -/
def Obligations.IrsendSendsTheCodeFrame : Prop :=
  ∀ (code : BitVec 12) (s : State), code ≠ 0 → s.cfg.lit.complAt = 25 → ∃ t, exec (.irsend code) s = .next t ∧
    envelope t.cfg 51 t.ir = codeFrame s.cfg.lit s.cfg.irMsbFirst code ∧
    firings t.cfg 51 t.ir =
      { ph := 51, sr := ~~~(code.zeroExtend 16), tcnt := 0, ocr := s.cfg.lit.tPulse, ten := false, gate := false }

/-- R106: the three intervals of a repeat frame, with the source's literals those of the rule, then idle with the timer
off and `SR` untouched. -/
def Obligations.IrrptSendsTheRepeatFrame : Prop :=
  ∀ s : State, ∃ t, exec .irrpt s = .next t ∧ envelope t.cfg 3 t.ir = repeatFrame s.cfg.lit ∧
    (s.cfg.lit = .d00 → envelope t.cfg 3 t.ir = [(true, 9000), (false, 2100), (true, 400)]) ∧
    firings t.cfg 3 t.ir = { ph := 51, sr := s.ir.sr, tcnt := 0, ocr := s.cfg.lit.tPulse, ten := false, gate := false }

/-- R107: every code frame lasts the same whatever the code and the durations, since it holds twelve bits of each value;
with the source's literals that is 42700 us, and a repeat frame lasts 11500 us. -/
def Obligations.FramesLastTheSameForEveryCode : Prop :=
  (∀ (l : Literals) (msbFirst : Bool) (code : BitVec 12), totalTime (codeFrame l msbFirst code) =
    l.tStart.toNat + l.tGapCode.toNat + 24 * l.tPulse.toNat + 12 * l.tOne.toNat + 12 * l.tZero.toNat +
      l.tPulse.toNat) ∧
  (∀ (msbFirst : Bool) (code : BitVec 12), totalTime (codeFrame .d00 msbFirst code) = 42700) ∧
  totalTime (repeatFrame .d00) = 11500

/-- R244, R254: after an arm the infrared registers do not depend on the frame it replaced. -/
def Obligations.AnArmForgetsTheFrameInFlight : Prop :=
  (∀ (code : BitVec 12) (s s' t t' : State), code ≠ 0 → s.cfg.lit = s'.cfg.lit →
    exec (.irsend code) s = .next t → exec (.irsend code) s' = .next t' → t.ir = t'.ir) ∧
  (∀ s s' t t' : State, s.ir.sr = s'.ir.sr → s.cfg.lit = s'.cfg.lit → exec .irrpt s = .next t → exec .irrpt s' = .next t' → t.ir = t'.ir)

/-- R44, R250: a duration `OCR` begun with `TCNT = 0` is due after exactly `OCR` `TICK`s and not before. -/
def Obligations.TheTimerMatchesAfterExactlyOcrTicks : Prop :=
  ∀ (s : State) (k : Nat), s.ir.ten = true → s.ir.tcnt = 0 → k ≤ s.ir.ocr.toNat →
    irFireEnabled (ticks k s) = decide (k = s.ir.ocr.toNat) ∧ (ticks k s).ir.ph = s.ir.ph ∧
      (ticks k s).ir.gate = s.ir.gate ∧ (ticks k s).now = s.now + BitVec.ofNat 32 k

/-- R249: once the timer is disabled, nothing but an arm or RESET changes an infrared register. -/
def Obligations.AStoppedEngineWaitsForAnArm : Prop :=
  ∀ (e : Event) (s t : State), runEvent e s = .next t → s.ir.ten = false → e ≠ .reset →
    (∀ w code, e = .host w → decode w ≠ .irsend code) → (∀ w, e = .host w → decode w ≠ .irrpt) → t.ir = s.ir

/-- R308: the two services commute. R309: an arm ordered before a due firing replaces it. -/
def Obligations.ServicesCommuteAndArmsReplaceFirings : Prop :=
  (∀ s : State, irFire (rxService s) = rxService (irFire s)) ∧
  (∀ s t : State, s.cfg.wf = true → exec .irrpt s = .next t → irFireEnabled t = false) ∧
  (∀ (code : BitVec 12) (s t : State), s.cfg.wf = true → code ≠ 0 → exec (.irsend code) s = .next t →
    irFireEnabled t = false)

/-- The square wave of R252 and R48 in the model's rendering of the oscillator's phase (log entry 14): a toggle inverts
the output, the instant of the next one is later by the fraction of a period that belongs to the new level, two toggles
take exactly one period of `10^6 / CARRIER_HZ` microseconds, and the part `frac` of the instant stays below one
microsecond. The event toggles at that instant and, by the model's choice (log entry 7), changes nothing at any other.
`IR_OUT` is the oscillator where the gate is open and 0 where it is not. -/
def Obligations.TheOscillatorIsASquareWave : Prop :=
  (∀ (p : Params) (o : Oscillator), p.wf = true →
    (oscToggle p o).level = !o.level ∧ (oscToggle p o).frac < p.carrierHz * p.dutyDen ∧
    (∃ k : Nat, (oscToggle p o).due = o.due + BitVec.ofNat 32 k ∧
      k * (p.carrierHz * p.dutyDen) + (oscToggle p o).frac =
        o.frac + 1000000 * (if o.level then p.dutyDen - p.dutyNum else p.dutyNum)) ∧
    (∃ k : Nat, (oscToggle p (oscToggle p o)).due = o.due + BitVec.ofNat 32 k ∧
      k * (p.carrierHz * p.dutyDen) + (oscToggle p (oscToggle p o)).frac = o.frac + 1000000 * p.dutyDen)) ∧
  (∀ s : State, s.now = s.osc.due → runEvent .oscStep s = .next { s with osc := oscToggle s.cfg s.osc }) ∧
  (∀ s : State, s.now ≠ s.osc.due → runEvent .oscStep s = .next s) ∧
  ∀ s : State, (s.ir.gate = true → irOut s = s.osc.level) ∧ (s.ir.gate = false → irOut s = false)

/-- R252: no toggle comes early and none is missed (log entry 14). No step but RESET changes the oscillator except by
toggles, and by none where the instant of the next one is not now; and from a good phase the microsecond of a toggle
does not end without it. -/
def Obligations.NoToggleIsEarlyOrMissed : Prop :=
  (∀ (e : Event) (s t : State), runEvent e s = .next t → e ≠ .reset →
    ∃ n, t.osc = (oscToggle s.cfg)^[n] s.osc ∧ (s.now ≠ s.osc.due → n = 0)) ∧
  ∀ (e : Event) (s t : State), s.cfg.wf = true → OscInv s → runEvent e s = .next t → e ≠ .reset → t.now ≠ s.now →
    t.osc.due ≠ s.now ∧ (s.now = s.osc.due → ∃ n, t.osc = (oscToggle s.cfg)^[n + 1] s.osc)

/-! ### Time, reset, whole-machine rules -/

/-- R52 with R11: a `TICK` passes a microsecond only where no urgent step is enabled, and then changes nothing but `NOW`
and a running `TCNT` (and the oscillator, where a toggle falls in the microsecond that ends: log entry 14); else an
urgent step that is enabled happens and the `TICK` is still to come (log entry 8). -/
def Obligations.TickWaitsForUrgentSteps : Prop :=
  ∀ s : State,
    ((s.edge.rxie && s.edge.rxif) = false → ¬ (s.ir.ten = true ∧ s.ir.tcnt = s.ir.ocr) →
      ∃ o : Oscillator, (s.now ≠ s.osc.due → o = s.osc) ∧ runEvent .tick s = .next { s with
        now := s.now + 1, ir.tcnt := if s.ir.ten then s.ir.tcnt + 1 else s.ir.tcnt, osc := o }) ∧
    ((s.edge.rxie && s.edge.rxif) = true ∨ (s.ir.ten = true ∧ s.ir.tcnt = s.ir.ocr) →
      ∃ t, runEvent .tick s = .next t ∧ t.now = s.now ∧
        (((s.edge.rxie && s.edge.rxif) = true ∧ t = { rxService s with sched := .tick :: s.sched }) ∨
          ((s.ir.ten = true ∧ s.ir.tcnt = s.ir.ocr) ∧ t = { irFire s with sched := .tick :: s.sched })))

/-- R54, R341, R343: the reset state and the state after the event RESET have the values of R54; the event leaves the
device's drivers (log entry 11); from these values no engine takes a step, which the model renders as an event that
changes nothing (log entry 7). -/
def Obligations.ResetGivesTheValuesOfTheSpec : Prop :=
  ResetValues State.reset ∧
  (∀ s : State, ∃ t, runEvent .reset s = .next t ∧ ResetValues t ∧ t.lines.dclk = s.lines.dclk ∧
    t.lines.ddat = s.lines.ddat) ∧
  ∀ (s : State) (e : Event), ResetValues s →
    e ∈ [Event.rxService, .wReqDone, .wRtsDone, .wPollLow, .wPollHigh, .wPollAckL, .wPollAckH, .irFire] →
    runEvent e s = .next s

/-- R341, with log entry 7 for the events whose guard is false: with the receive interrupt disabled, the writer idle and the timer off, the steps that are not the host's and
not RESET change nothing but time, the timer-independent oscillator, the device's drivers and the latch. -/
def Obligations.AQuiescentCoreWaitsForTheHost : Prop :=
  ∀ (e : Event) (s t : State), runEvent e s = .next t → s.edge.rxie = false → s.wr.ws = .idle → s.ir.ten = false →
    (∀ w, e ≠ .host w) → e ≠ .rxDrain → e ≠ .mouseDecode → e ≠ .reset →
    t = { s with now := t.now, osc := t.osc, edge.rxif := t.edge.rxif, lines.dclk := t.lines.dclk,
                 lines.ddat := t.lines.ddat }

/-- The rows of R314 for the engines and the environment: what each internal step leaves unchanged. RX_SERVICE stores
to no slot but `BUF[TAIL]`. -/
def Obligations.InternalStepFrame : Prop :=
  ∀ (e : Event) (s t : State), runEvent e s = .next t →
    (e = .rxService →
      t = { s with edge.rxif := t.edge.rxif, rx := t.rx, ring.buf := t.ring.buf, ring.tail := t.ring.tail,
                   flags.ovf := t.flags.ovf, flags.rsy := t.flags.rsy } ∧
      ∀ a, a ≠ ringSlot s.cfg s.ring.tail → bufRead a t = bufRead a s) ∧
    (e ∈ [Event.wReqDone, .wRtsDone, .wPollLow, .wPollHigh, .wPollAckL, .wPollAckH] →
      t = { s with lines.hclk := t.lines.hclk, lines.hdat := t.lines.hdat, edge := t.edge, wr.ws := t.wr.ws,
                   wr.wi := t.wr.wi, wr.esc := t.wr.esc, wr.wt0 := t.wr.wt0, flags.wto := t.flags.wto,
                   flags.wok := t.flags.wok }) ∧
    (e = .irFire → t = { s with ir := t.ir }) ∧
    (e = .oscStep → t = { s with osc := t.osc }) ∧
    ((∃ c d, e = .devDrive c d) → t = { s with
      edge.rxif := t.edge.rxif, lines.dclk := t.lines.dclk, lines.ddat := t.lines.ddat })

/-- The invariants of R27, R31 to R34, R42, R45, R182, R188, R247 and R361 hold at reset. -/
def Obligations.InvariantsAtReset : Prop := Inv State.reset

/-- The invariants of R27, R31 to R34, R42, R45, R182, R188, R247 and R361 are kept by every step, whatever comes next. -/
def Obligations.EveryStepKeepsTheInvariants : Prop :=
  ∀ s t : State, Inv s → step s = .next t → Inv t

/-- R342: the registers that reset leaves unspecified are never observed. Whatever they draw, two states after RESET
agree in all that is specified; and two good states that agree so answer with states that agree again, and with the
same response word, line drive and envelope. The spec marks R342 as its own inference. The draws and the values of unspecified registers are log entries 3, 4 and
11. -/
def Obligations.UnspecifiedRegistersAreNeverObserved : Prop :=
  (∀ (d d' : ResetDraw) (f f' : Nat → Byte) (s : State), AgreeWhereSpecified (resetTo d f s) (resetTo d' f' s)) ∧
  ∀ s t : State, Inv s → Inv t → AgreeWhereSpecified s t →
    ∃ s' t', step s = .next s' ∧ step t = .next t' ∧ AgreeWhereSpecified s' t' ∧ observed s' = observed t'

/-! ### The companion decoder -/

/-- R224 to R227, one command an event (log entry 16), when no other agent acts during the call: fewer than three bytes, nothing is popped; a misaligned
first byte, one byte is; an aligned packet, three are, its buttons and directions reported unless a delta overflowed. -/
def Obligations.MouseDecodeReportsThePacket : Prop :=
  (∀ s : State, runEvent .mouseDecode s = .next (mouseStep s)) ∧
  ∀ s : State, s.cfg.wf = true → RingInv s → s.mouse.phase = .idle →
    ((ringEntries s.cfg s.ring).length < 3 →
      (mouseStep s).ring = s.ring ∧ (mouseStep s).mouse = { btn := s.mouse.btn, phase := .idle, mask := 0#4 ++ s.mouse.btn }) ∧
    (∀ (st x y : Byte) (rest : List Byte), ringEntries s.cfg s.ring = st :: x :: y :: rest →
      (st &&& s.cfg.lit.alignMask ≠ s.cfg.alignValue →
        ringEntries s.cfg (mouseStep^[2] s).ring = x :: y :: rest ∧
        (mouseStep^[2] s).mouse = { btn := s.mouse.btn, phase := .idle, mask := 0#4 ++ s.mouse.btn }) ∧
      (st &&& s.cfg.lit.alignMask = s.cfg.alignValue → (st.getLsbD 6 || st.getLsbD 7) = true →
        ringEntries s.cfg (mouseStep^[4] s).ring = rest ∧
        (mouseStep^[4] s).mouse = { btn := s.mouse.btn, phase := .idle, mask := 0#4 ++ s.mouse.btn }) ∧
      (st &&& s.cfg.lit.alignMask = s.cfg.alignValue → (st.getLsbD 6 || st.getLsbD 7) = false →
        ∃ dx dy : Int, dx = (x.toNat : Int) - 256 * (st.getLsbD 4).toNat ∧
          dy = (y.toNat : Int) - 256 * (st.getLsbD 5).toNat ∧
          ringEntries s.cfg (mouseStep^[4] s).ring = rest ∧
          (mouseStep^[4] s).mouse.btn = st.extractLsb' 0 2 ∧ (mouseStep^[4] s).mouse.phase = .idle ∧
          (mouseStep^[4] s).mouse.mask.extractLsb' 0 2 = st.extractLsb' 0 2 ∧
          (mouseStep^[4] s).mouse.mask.getLsbD 2 = decide (dy < 0) ∧
          (mouseStep^[4] s).mouse.mask.getLsbD 3 = decide (0 < dy) ∧
          (mouseStep^[4] s).mouse.mask.getLsbD 4 = decide (dx < 0) ∧
          (mouseStep^[4] s).mouse.mask.getLsbD 5 = decide (0 < dx)))

/-! ### The host loop RXDRAIN -/

/-- R117: one turn of the loop is an RXPOP, and another turn follows exactly where its response was valid; where no other
agent acts, the loop on a ring of `n` entries takes `n + 1` pops and leaves the ring empty, the last response invalid,
and everything else as before. That one event is one turn is the model's choice (log entry 17). -/
def Obligations.RxdrainPopsUntilTheRingIsEmpty : Prop :=
  (∀ s : State,
    (s.ring.head = s.ring.tail → runEvent .rxDrain s = .next { s with resp := 0x0000 }) ∧
    (s.ring.head ≠ s.ring.tail → runEvent .rxDrain s = .next { s with
      resp := 0x8000 ||| (bufRead (s.ring.head &&& ringMask s.cfg).toNat s).zeroExtend 16
      ring.head := (s.ring.head + 1) &&& ringMask s.cfg
      sched := .rxDrain :: s.sched })) ∧
  ∀ (s : State) (rest : List Event), s.cfg.wf = true → RingInv s → s.sched = .rxDrain :: rest →
    Host.Core.run Sys2Proof.core ((ringEntries s.cfg s.ring).length + 1) s =
      .next { s with sched := rest, resp := 0x0000, ring.head := s.ring.tail }
end

