-- ==== Sys2Proof/Laws/Decode.lean ====
section
/-! SUPPORT. The fields of a command word put together and taken apart (30_encoding.md R111), and the decoder on a word
written as opcode and operand field. -/

namespace Sys2Proof

theorem append_getLsbD (o : BitVec 4) (a : BitVec 12) (i : Nat) :
    BitVec.getLsbD (w := 16) (o ++ a) i = if i < 12 then a.getLsbD i else o.getLsbD (i - 12) :=
  BitVec.getLsbD_append

@[simp] theorem opField_append (o : BitVec 4) (a : BitVec 12) : opField (o ++ a) = o := by
  apply BitVec.eq_of_getLsbD_eq
  intro i hi
  rw [opField, BitVec.getLsbD_extractLsb', append_getLsbD, if_neg (by omega)]
  simp [hi]

@[simp] theorem argField_append (o : BitVec 4) (a : BitVec 12) : argField (o ++ a) = a := by
  apply BitVec.eq_of_getLsbD_eq
  intro i hi
  rw [argField, BitVec.getLsbD_extractLsb', append_getLsbD, if_pos (by omega)]
  simp [hi]

/-- Every word is its opcode in front of its operand field. -/
theorem word_eq_append (w : Word) : w = opField w ++ argField w := by
  apply BitVec.eq_of_getLsbD_eq
  intro i hi
  rw [append_getLsbD]
  split
  · simp_all [argField]
  · have : i - 12 < 4 := by omega
    rw [opField, BitVec.getLsbD_extractLsb']
    simp only [this, decide_true, Bool.true_and]
    congr 1
    omega

/-- The sixteen opcodes. -/
theorem op_cases (o : BitVec 4) :
    o = 0x0 ∨ o = 0x1 ∨ o = 0x2 ∨ o = 0x3 ∨ o = 0x4 ∨ o = 0x5 ∨ o = 0x6 ∨ o = 0x7 ∨ o = 0x8 ∨ o = 0x9 ∨ o = 0xA ∨
      o = 0xB ∨ o = 0xC ∨ o = 0xD ∨ o = 0xE ∨ o = 0xF := by
  revert o
  decide

theorem decode_irsend (a : BitVec 12) : decode (0x1#4 ++ a) = .irsend a := by
  simp only [decode, opField_append, argField_append]
  rfl

theorem decode_ps2wr (a : BitVec 12) : decode (0x3#4 ++ a) = .ps2wr (argByte a) := by
  simp only [decode, opField_append, argField_append]
  rfl

theorem decode_clrf (a : BitVec 12) : decode (0x7#4 ++ a) = .clrf (argMask a) := by
  simp only [decode, opField_append, argField_append]
  rfl

theorem decode_rxen (a : BitVec 12) : decode (0x8#4 ++ a) = .rxen (argEn a) := by
  simp only [decode, opField_append, argField_append]
  rfl

end Sys2Proof
end

