-- ==== Sys2Proof/Laws/Memory.lean ====
section
/-! SUPPORT. The ring's memory: what a read answers after a write, and that every operation keeps the canonical form. -/

namespace Sys2Proof.Machine

@[simp] theorem memRead_nil (a : Nat) : memRead [] a = unlistedByte := rfl

theorem memRead_memCons_same {m : List Host.Cell} {a : Nat} (v : Byte) (h : memRead m a = unlistedByte) :
    memRead (memCons a v m) a = v := by
  unfold memCons
  split
  · simpa [h] using (Eq.symm ‹_›)
  · simp [memRead]

theorem memRead_memCons_other (m : List Host.Cell) {a b : Nat} (v : Byte) (h : a ≠ b) :
    memRead (memCons a v m) b = memRead m b := by
  unfold memCons
  split
  · rfl
  · simp [memRead, h]

theorem memWfFrom_mono {lo lo' : Nat} {m : List Host.Cell} (h : memWfFrom lo m = true) (hle : lo' ≤ lo) :
    memWfFrom lo' m = true := by
  cases m with
  | nil => rfl
  | cons c m =>
    simp only [memWfFrom, Bool.and_eq_true, decide_eq_true_eq] at h ⊢
    exact ⟨⟨by omega, h.1.2⟩, h.2⟩

theorem memRead_below {lo a : Nat} {m : List Host.Cell} (h : memWfFrom lo m = true) (ha : a < lo) :
    memRead m a = unlistedByte := by
  induction m generalizing lo with
  | nil => rfl
  | cons c m ih =>
    simp only [memWfFrom, Bool.and_eq_true, decide_eq_true_eq] at h
    have hne : c.1 ≠ a := by omega
    simp only [memRead, hne, if_false]
    exact ih h.2 (by omega)

/-- A read after a write to the same slot answers the value written. -/
theorem memRead_memWrite_same {lo : Nat} {m : List Host.Cell} (h : memWfFrom lo m = true) (a : Nat) (v : Byte) :
    memRead (memWrite m a v) a = v := by
  induction m generalizing lo with
  | nil => exact memRead_memCons_same v rfl
  | cons c m ih =>
    have hc := h
    simp only [memWfFrom, Bool.and_eq_true, decide_eq_true_eq] at h
    simp only [memWrite]
    split
    · refine memRead_memCons_same v (memRead_below (lo := c.1) ?_ ‹_›)
      simp only [memWfFrom, Bool.and_eq_true, decide_eq_true_eq]
      exact ⟨⟨Nat.le_refl _, h.1.2⟩, h.2⟩
    · split
      · exact memRead_memCons_same v (memRead_below h.2 (by omega))
      · have hne : c.1 ≠ a := by omega
        simp only [memRead, hne, if_false]
        exact ih h.2

/-- A write leaves every other slot alone. -/
theorem memRead_memWrite_other (m : List Host.Cell) {a b : Nat} (v : Byte) (h : a ≠ b) :
    memRead (memWrite m a v) b = memRead m b := by
  induction m with
  | nil => exact memRead_memCons_other [] v h
  | cons c m ih =>
    simp only [memWrite]
    split
    · exact memRead_memCons_other _ v h
    · split
      · have hne : c.1 ≠ b := by omega
        rw [memRead_memCons_other m v h]
        simp [memRead, hne]
      · simp only [memRead]
        split
        · rfl
        · exact ih

theorem memCons_wf {lo a : Nat} {m : List Host.Cell} (v : Byte) (h : memWfFrom (a + 1) m = true) (hlo : lo ≤ a) :
    memWfFrom lo (memCons a v m) = true := by
  unfold memCons
  split
  · exact memWfFrom_mono h (by omega)
  · simp only [memWfFrom, Bool.and_eq_true, decide_eq_true_eq]
    exact ⟨⟨hlo, ‹_›⟩, h⟩

/-- A write keeps the canonical form. -/
theorem memWrite_wfFrom {lo a : Nat} {m : List Host.Cell} (v : Byte) (h : memWfFrom lo m = true) (hlo : lo ≤ a) :
    memWfFrom lo (memWrite m a v) = true := by
  induction m generalizing lo with
  | nil => exact memCons_wf v rfl hlo
  | cons c m ih =>
    simp only [memWfFrom, Bool.and_eq_true, decide_eq_true_eq] at h
    simp only [memWrite]
    split
    · refine memCons_wf v ?_ hlo
      simp only [memWfFrom, Bool.and_eq_true, decide_eq_true_eq]
      exact ⟨⟨by omega, h.1.2⟩, h.2⟩
    · split
      · exact memCons_wf v (memWfFrom_mono h.2 (by omega)) hlo
      · simp only [memWfFrom, Bool.and_eq_true, decide_eq_true_eq]
        exact ⟨h.1, ih h.2 (by omega)⟩

/-- A write keeps the canonical form (`Memory.wf`). -/
theorem memWrite_wf {m : List Host.Cell} (a : Nat) (v : Byte) (h : Memory.wf m = true) :
    Memory.wf (memWrite m a v) = true := memWrite_wfFrom v h (Nat.zero_le _)

theorem mem_memCons {a n : Nat} {m : List Host.Cell} {v : Byte} (ha : a < n) (h : ∀ c ∈ m, c.1 < n) :
    ∀ c ∈ memCons a v m, c.1 < n := by
  unfold memCons
  split
  · exact h
  · intro c hc
    rcases List.mem_cons.1 hc with rfl | hc
    · exact ha
    · exact h c hc

/-- A write below `n` keeps every listed slot below `n`. -/
theorem memWrite_below {n a : Nat} {m : List Host.Cell} (v : Byte) (ha : a < n) (h : ∀ c ∈ m, c.1 < n) :
    ∀ c ∈ memWrite m a v, c.1 < n := by
  induction m with
  | nil => exact mem_memCons ha h
  | cons c m ih =>
    simp only [memWrite]
    split
    · exact mem_memCons ha h
    · split
      · exact mem_memCons ha fun d hd => h d (List.mem_cons_of_mem _ hd)
      · intro d hd
        rcases List.mem_cons.1 hd with rfl | hd
        · exact h _ (List.mem_cons_self ..)
        · exact ih (fun e he => h e (List.mem_cons_of_mem _ he)) d hd

/-- The memory that `RESET` draws is canonical. -/
theorem memOfFn_wf (f : Nat → Byte) (n : Nat) : Memory.wf (memOfFn f n) = true := by
  induction n with
  | zero => rfl
  | succ n ih => exact memWrite_wf n (f n) ih

/-- The memory that `RESET` draws lists only slots below `n`. -/
theorem memOfFn_below (f : Nat → Byte) (n : Nat) : ∀ c ∈ memOfFn f n, c.1 < n := by
  induction n with
  | zero => intro c hc; cases hc
  | succ n ih => exact memWrite_below (f n) (Nat.lt_succ_self n) fun c hc => Nat.lt_succ_of_lt (ih c hc)

/-- What the memory that `RESET` draws answers. -/
theorem memRead_memOfFn (f : Nat → Byte) {n i : Nat} (h : i < n) : memRead (memOfFn f n) i = f i := by
  induction n with
  | zero => omega
  | succ n ih =>
    rcases Nat.lt_succ_iff_lt_or_eq.1 h with h | rfl
    · rw [memOfFn, memRead_memWrite_other _ _ (by omega)]
      exact ih h
    · exact memRead_memWrite_same (memOfFn_wf f i) i (f i)

end Sys2Proof.Machine
end

