-- ==== Sys2Proof/Laws/PerInstr.lean ====
section
/-! SUPPORT. Per-instruction families: one lemma for each constructor of Instr. -/

namespace Sys2Proof.Laws.EncodeSelectsRow

/-- The word of a command selects the row of the opcode map that has its mnemonic (R113). -/
def Statement (i : Instr) : Prop :=
  ∃ r ∈ opcodeMap, r.mnemonic = i.mnemonic ∧ encode i &&& r.mask = r.value

theorem op_append_mask (op : BitVec 4) (a : BitVec 12) : (op ++ a) &&& 0xF000 = op ++ 0#12 := by
  apply BitVec.eq_of_getLsbD_eq
  intro j hj
  simp only [BitVec.getLsbD_and, BitVec.getLsbD_append]
  interval_cases j <;> simp

/-- The opcode bits of a command's word are those of its row. -/
theorem encode_opcode (i : Instr) : encode i &&& 0xF000 = i.op ++ 0#12 := op_append_mask _ _

theorem nop : Statement .nop := ⟨⟨"NOP", 0x0000, 0xF000⟩, by decide, rfl, by decide⟩

theorem irsend (code : BitVec 12) : Statement (.irsend code) :=
  ⟨⟨"IRSEND", 0x1000, 0xF000⟩, by decide, rfl,
    (encode_opcode _).trans (by decide : (0x1#4 ++ 0#12 : Word) = 0x1000)⟩

theorem irrpt : Statement .irrpt := ⟨⟨"IRRPT", 0x2000, 0xF000⟩, by decide, rfl, by decide⟩

theorem ps2wr (byte : Byte) : Statement (.ps2wr byte) :=
  ⟨⟨"PS2WR", 0x3000, 0xF000⟩, by decide, rfl,
    (encode_opcode _).trans (by decide : (0x3#4 ++ 0#12 : Word) = 0x3000)⟩

theorem rxpop : Statement .rxpop := ⟨⟨"RXPOP", 0x4000, 0xF000⟩, by decide, rfl, by decide⟩

theorem rxcnt : Statement .rxcnt := ⟨⟨"RXCNT", 0x5000, 0xF000⟩, by decide, rfl, by decide⟩

theorem rdst : Statement .rdst := ⟨⟨"RDST", 0x6000, 0xF000⟩, by decide, rfl, by decide⟩

theorem clrf (mask : BitVec 5) : Statement (.clrf mask) :=
  ⟨⟨"CLRF", 0x7000, 0xF000⟩, by decide, rfl,
    (encode_opcode _).trans (by decide : (0x7#4 ++ 0#12 : Word) = 0x7000)⟩

theorem rxen (en : Bool) : Statement (.rxen en) :=
  ⟨⟨"RXEN", 0x8000, 0xF000⟩, by decide, rfl,
    (encode_opcode _).trans (by decide : (0x8#4 ++ 0#12 : Word) = 0x8000)⟩

theorem reserved9 : Statement .reserved9 := ⟨⟨"RESERVED_9", 0x9000, 0xF000⟩, by decide, rfl, by decide⟩

theorem reservedA : Statement .reservedA := ⟨⟨"RESERVED_A", 0xA000, 0xF000⟩, by decide, rfl, by decide⟩

theorem reservedB : Statement .reservedB := ⟨⟨"RESERVED_B", 0xB000, 0xF000⟩, by decide, rfl, by decide⟩

theorem reservedC : Statement .reservedC := ⟨⟨"RESERVED_C", 0xC000, 0xF000⟩, by decide, rfl, by decide⟩

theorem reservedD : Statement .reservedD := ⟨⟨"RESERVED_D", 0xD000, 0xF000⟩, by decide, rfl, by decide⟩

theorem reservedE : Statement .reservedE := ⟨⟨"RESERVED_E", 0xE000, 0xF000⟩, by decide, rfl, by decide⟩

theorem reservedF : Statement .reservedF := ⟨⟨"RESERVED_F", 0xF000, 0xF000⟩, by decide, rfl, by decide⟩

end Sys2Proof.Laws.EncodeSelectsRow
end

