-- ==== Sys2Proof/Laws/Ring.lean ====
section
/-! SUPPORT. The ring's index arithmetic as arithmetic modulo `CAP`, and what push, pop and read do to the memory. -/

namespace Sys2Proof.Machine

/-- Parameters within R8 give a capacity from 4 to 65536. -/
theorem ringCap_bounds {p : Params} (h : p.wf = true) : 4 ≤ ringCap p ∧ ringCap p ≤ 65536 := by
  simp only [Params.wf, decide_eq_true_eq] at h
  have h1 : 2 ^ 2 ≤ 2 ^ p.rbLog2 := Nat.pow_le_pow_right (by decide) (by omega)
  have h2 : 2 ^ p.rbLog2 ≤ 2 ^ 16 := Nat.pow_le_pow_right (by decide) (by omega)
  simp only [ringCap]
  omega

/-- Masking an index is taking it modulo `CAP`. -/
theorem and_ringMask_toNat {p : Params} (h : p.wf = true) (i : BitVec 16) :
    (i &&& ringMask p).toNat = i.toNat % ringCap p := by
  have hc := ringCap_bounds h
  simp only [ringMask, BitVec.toNat_and, BitVec.toNat_ofNat, ringCap] at *
  rw [Nat.mod_eq_of_lt (by omega : 2 ^ p.rbLog2 - 1 < 2 ^ 16)]
  exact Nat.and_two_pow_sub_one_eq_mod ..

theorem ringSlot_eq_mod {p : Params} (h : p.wf = true) (i : BitVec 16) : ringSlot p i = i.toNat % ringCap p :=
  and_ringMask_toNat h i

theorem ringSlot_lt {p : Params} (h : p.wf = true) (i : BitVec 16) : ringSlot p i < ringCap p := by
  rw [ringSlot_eq_mod h]
  exact Nat.mod_lt _ (by have := ringCap_bounds h; omega)

/-- `CAP` divides `2^16`, so that reducing an index to 16 bits first makes no difference. -/
theorem ringCap_dvd {p : Params} (h : p.wf = true) : ringCap p ∣ 65536 := by
  simp only [Params.wf, decide_eq_true_eq] at h
  exact (Nat.pow_dvd_pow 2 (by omega : p.rbLog2 ≤ 16))

theorem ringNext_toNat {p : Params} (h : p.wf = true) (i : BitVec 16) :
    (ringNext p i).toNat = (i.toNat + 1) % ringCap p := by
  rw [ringNext, and_ringMask_toNat h, BitVec.toNat_add]
  exact Nat.mod_mod_of_dvd _ (ringCap_dvd h)

theorem ringCount_toNat {p : Params} (h : p.wf = true) (r : Ring) :
    (ringCount p r).toNat = (65536 - r.head.toNat + r.tail.toNat) % ringCap p := by
  rw [ringCount, and_ringMask_toNat h, BitVec.toNat_sub]
  exact Nat.mod_mod_of_dvd _ (ringCap_dvd h)

/-- An index whose bits above `RB_LOG2` are 0 is below `CAP`. -/
theorem lt_ringCap_of_masked {p : Params} (h : p.wf = true) {i : BitVec 16} (hi : i &&& ringMask p = i) :
    i.toNat < ringCap p := by
  have := and_ringMask_toNat h i
  rw [hi] at this
  rw [this]
  exact Nat.mod_lt _ (by have := ringCap_bounds h; omega)

/-- Masking twice is masking once, so every index a rule computes has its bits above `RB_LOG2` at 0. -/
theorem ringNext_masked (p : Params) (i : BitVec 16) : ringNext p i &&& ringMask p = ringNext p i := by
  simp [ringNext, BitVec.and_assoc]

@[simp] theorem ringPush_head (p : Params) (v : Byte) (r : Ring) : (ringPush p v r).head = r.head := rfl
@[simp] theorem ringPush_tail (p : Params) (v : Byte) (r : Ring) : (ringPush p v r).tail = ringNext p r.tail := rfl
@[simp] theorem ringPush_buf (p : Params) (v : Byte) (r : Ring) :
    (ringPush p v r).buf = memWrite r.buf (ringSlot p r.tail) v := rfl
@[simp] theorem ringDrop_head (p : Params) (r : Ring) : (ringDrop p r).head = ringNext p r.head := rfl
@[simp] theorem ringDrop_tail (p : Params) (r : Ring) : (ringDrop p r).tail = r.tail := rfl
@[simp] theorem ringDrop_buf (p : Params) (r : Ring) : (ringDrop p r).buf = r.buf := rfl

/-- A push writes its slot. -/
theorem memRead_ringPush_same {p : Params} {r : Ring} (v : Byte) (h : Memory.wf r.buf = true) :
    memRead (ringPush p v r).buf (ringSlot p r.tail) = v := memRead_memWrite_same h _ v

/-- A push leaves every other slot alone. -/
theorem memRead_ringPush_other {p : Params} {r : Ring} {a : Nat} (v : Byte) (h : a ≠ ringSlot p r.tail) :
    memRead (ringPush p v r).buf a = memRead r.buf a := memRead_memWrite_other _ v h.symm

end Sys2Proof.Machine
end

