-- ==== Sys2Proof/Laws/State.lean ====
section
/-! SUPPORT. For each named update of the state, what each field holds after it, so that no later proof unfolds a record
update. -/

namespace Sys2Proof.Machine

@[simp] theorem respond_cfg (v : Word) (s : State) : (respond v s).cfg = s.cfg := rfl
@[simp] theorem respond_now (v : Word) (s : State) : (respond v s).now = s.now := rfl
@[simp] theorem respond_lines (v : Word) (s : State) : (respond v s).lines = s.lines := rfl
@[simp] theorem respond_edge (v : Word) (s : State) : (respond v s).edge = s.edge := rfl
@[simp] theorem respond_rx (v : Word) (s : State) : (respond v s).rx = s.rx := rfl
@[simp] theorem respond_ring (v : Word) (s : State) : (respond v s).ring = s.ring := rfl
@[simp] theorem respond_wr (v : Word) (s : State) : (respond v s).wr = s.wr := rfl
@[simp] theorem respond_ir (v : Word) (s : State) : (respond v s).ir = s.ir := rfl
@[simp] theorem respond_osc (v : Word) (s : State) : (respond v s).osc = s.osc := rfl
@[simp] theorem respond_flags (v : Word) (s : State) : (respond v s).flags = s.flags := rfl
@[simp] theorem respond_mouse (v : Word) (s : State) : (respond v s).mouse = s.mouse := rfl
@[simp] theorem respond_resp (v : Word) (s : State) : (respond v s).resp = v := rfl
@[simp] theorem respond_sched (v : Word) (s : State) : (respond v s).sched = s.sched := rfl
@[simp] theorem respond_draws (v : Word) (s : State) : (respond v s).draws = s.draws := rfl

@[simp] theorem raiseFlag_cfg (f : Flag) (s : State) : (raiseFlag f s).cfg = s.cfg := by cases f <;> rfl
@[simp] theorem raiseFlag_now (f : Flag) (s : State) : (raiseFlag f s).now = s.now := by cases f <;> rfl
@[simp] theorem raiseFlag_lines (f : Flag) (s : State) : (raiseFlag f s).lines = s.lines := by cases f <;> rfl
@[simp] theorem raiseFlag_edge (f : Flag) (s : State) : (raiseFlag f s).edge = s.edge := by cases f <;> rfl
@[simp] theorem raiseFlag_rx (f : Flag) (s : State) : (raiseFlag f s).rx = s.rx := by cases f <;> rfl
@[simp] theorem raiseFlag_ring (f : Flag) (s : State) : (raiseFlag f s).ring = s.ring := by cases f <;> rfl
@[simp] theorem raiseFlag_wr (f : Flag) (s : State) : (raiseFlag f s).wr = s.wr := by cases f <;> rfl
@[simp] theorem raiseFlag_ir (f : Flag) (s : State) : (raiseFlag f s).ir = s.ir := by cases f <;> rfl
@[simp] theorem raiseFlag_osc (f : Flag) (s : State) : (raiseFlag f s).osc = s.osc := by cases f <;> rfl
@[simp] theorem raiseFlag_mouse (f : Flag) (s : State) : (raiseFlag f s).mouse = s.mouse := by cases f <;> rfl
@[simp] theorem raiseFlag_resp (f : Flag) (s : State) : (raiseFlag f s).resp = s.resp := by cases f <;> rfl
@[simp] theorem raiseFlag_sched (f : Flag) (s : State) : (raiseFlag f s).sched = s.sched := by cases f <;> rfl
@[simp] theorem raiseFlag_draws (f : Flag) (s : State) : (raiseFlag f s).draws = s.draws := by cases f <;> rfl
@[simp] theorem raiseFlag_ovf (s : State) : (raiseFlag .ovf s).flags = { s.flags with ovf := true } := rfl
@[simp] theorem raiseFlag_rsy (s : State) : (raiseFlag .rsy s).flags = { s.flags with rsy := true } := rfl
@[simp] theorem raiseFlag_wto (s : State) : (raiseFlag .wto s).flags = { s.flags with wto := true } := rfl
@[simp] theorem raiseFlag_ill (s : State) : (raiseFlag .ill s).flags = { s.flags with ill := true } := rfl
@[simp] theorem raiseFlag_wok (s : State) : (raiseFlag .wok s).flags = { s.flags with wok := true } := rfl

@[simp] theorem setLines_cfg (a b c d : Option Bool) (s : State) : (setLines a b c d s).cfg = s.cfg := rfl
@[simp] theorem setLines_now (a b c d : Option Bool) (s : State) : (setLines a b c d s).now = s.now := rfl
@[simp] theorem setLines_lines (a b c d : Option Bool) (s : State) : (setLines a b c d s).lines = driveLines a b c d s.lines := rfl
@[simp] theorem setLines_rx (a b c d : Option Bool) (s : State) : (setLines a b c d s).rx = s.rx := rfl
@[simp] theorem setLines_ring (a b c d : Option Bool) (s : State) : (setLines a b c d s).ring = s.ring := rfl
@[simp] theorem setLines_wr (a b c d : Option Bool) (s : State) : (setLines a b c d s).wr = s.wr := rfl
@[simp] theorem setLines_ir (a b c d : Option Bool) (s : State) : (setLines a b c d s).ir = s.ir := rfl
@[simp] theorem setLines_osc (a b c d : Option Bool) (s : State) : (setLines a b c d s).osc = s.osc := rfl
@[simp] theorem setLines_flags (a b c d : Option Bool) (s : State) : (setLines a b c d s).flags = s.flags := rfl
@[simp] theorem setLines_mouse (a b c d : Option Bool) (s : State) : (setLines a b c d s).mouse = s.mouse := rfl
@[simp] theorem setLines_resp (a b c d : Option Bool) (s : State) : (setLines a b c d s).resp = s.resp := rfl
@[simp] theorem setLines_sched (a b c d : Option Bool) (s : State) : (setLines a b c d s).sched = s.sched := rfl
@[simp] theorem setLines_draws (a b c d : Option Bool) (s : State) : (setLines a b c d s).draws = s.draws := rfl
@[simp] theorem setLines_rxie (a b c d : Option Bool) (s : State) : (setLines a b c d s).edge.rxie = s.edge.rxie := rfl
@[simp] theorem setLines_rxif (a b c d : Option Bool) (s : State) :
    (setLines a b c d s).edge.rxif = (s.edge.rxif || (clkLine s.lines && !clkLine (driveLines a b c d s.lines))) := rfl

@[simp] theorem rearm_cfg (s : State) : (rearm s).cfg = s.cfg := rfl
@[simp] theorem rearm_now (s : State) : (rearm s).now = s.now := rfl
@[simp] theorem rearm_lines (s : State) : (rearm s).lines = s.lines := rfl
@[simp] theorem rearm_edge (s : State) : (rearm s).edge = { rxie := true, rxif := false } := rfl
@[simp] theorem rearm_rx (s : State) : (rearm s).rx = s.rx := rfl
@[simp] theorem rearm_ring (s : State) : (rearm s).ring = s.ring := rfl
@[simp] theorem rearm_wr (s : State) : (rearm s).wr = s.wr := rfl
@[simp] theorem rearm_ir (s : State) : (rearm s).ir = s.ir := rfl
@[simp] theorem rearm_osc (s : State) : (rearm s).osc = s.osc := rfl
@[simp] theorem rearm_flags (s : State) : (rearm s).flags = s.flags := rfl
@[simp] theorem rearm_mouse (s : State) : (rearm s).mouse = s.mouse := rfl
@[simp] theorem rearm_resp (s : State) : (rearm s).resp = s.resp := rfl
@[simp] theorem rearm_sched (s : State) : (rearm s).sched = s.sched := rfl
@[simp] theorem rearm_draws (s : State) : (rearm s).draws = s.draws := rfl

@[simp] theorem enterWait_cfg (w : WState) (s : State) : (enterWait w s).cfg = s.cfg := rfl
@[simp] theorem enterWait_now (w : WState) (s : State) : (enterWait w s).now = s.now := rfl
@[simp] theorem enterWait_lines (w : WState) (s : State) : (enterWait w s).lines = s.lines := rfl
@[simp] theorem enterWait_edge (w : WState) (s : State) : (enterWait w s).edge = s.edge := rfl
@[simp] theorem enterWait_rx (w : WState) (s : State) : (enterWait w s).rx = s.rx := rfl
@[simp] theorem enterWait_ring (w : WState) (s : State) : (enterWait w s).ring = s.ring := rfl
@[simp] theorem enterWait_wr (w : WState) (s : State) : (enterWait w s).wr = { s.wr with ws := w, esc := s.cfg.escBudget } := rfl
@[simp] theorem enterWait_ir (w : WState) (s : State) : (enterWait w s).ir = s.ir := rfl
@[simp] theorem enterWait_osc (w : WState) (s : State) : (enterWait w s).osc = s.osc := rfl
@[simp] theorem enterWait_flags (w : WState) (s : State) : (enterWait w s).flags = s.flags := rfl
@[simp] theorem enterWait_mouse (w : WState) (s : State) : (enterWait w s).mouse = s.mouse := rfl
@[simp] theorem enterWait_resp (w : WState) (s : State) : (enterWait w s).resp = s.resp := rfl
@[simp] theorem enterWait_sched (w : WState) (s : State) : (enterWait w s).sched = s.sched := rfl
@[simp] theorem enterWait_draws (w : WState) (s : State) : (enterWait w s).draws = s.draws := rfl

@[simp] theorem holdTick_cfg (s : State) : (holdTick s).cfg = s.cfg := rfl
@[simp] theorem holdTick_now (s : State) : (holdTick s).now = s.now := rfl
@[simp] theorem holdTick_lines (s : State) : (holdTick s).lines = s.lines := rfl
@[simp] theorem holdTick_edge (s : State) : (holdTick s).edge = s.edge := rfl
@[simp] theorem holdTick_rx (s : State) : (holdTick s).rx = s.rx := rfl
@[simp] theorem holdTick_ring (s : State) : (holdTick s).ring = s.ring := rfl
@[simp] theorem holdTick_wr (s : State) : (holdTick s).wr = s.wr := rfl
@[simp] theorem holdTick_ir (s : State) : (holdTick s).ir = s.ir := rfl
@[simp] theorem holdTick_osc (s : State) : (holdTick s).osc = s.osc := rfl
@[simp] theorem holdTick_flags (s : State) : (holdTick s).flags = s.flags := rfl
@[simp] theorem holdTick_mouse (s : State) : (holdTick s).mouse = s.mouse := rfl
@[simp] theorem holdTick_resp (s : State) : (holdTick s).resp = s.resp := rfl
@[simp] theorem holdTick_sched (s : State) : (holdTick s).sched = .tick :: s.sched := rfl
@[simp] theorem holdTick_draws (s : State) : (holdTick s).draws = s.draws := rfl

@[simp] theorem irFire_cfg (s : State) : (irFire s).cfg = s.cfg := rfl
@[simp] theorem irFire_now (s : State) : (irFire s).now = s.now := rfl
@[simp] theorem irFire_lines (s : State) : (irFire s).lines = s.lines := rfl
@[simp] theorem irFire_edge (s : State) : (irFire s).edge = s.edge := rfl
@[simp] theorem irFire_rx (s : State) : (irFire s).rx = s.rx := rfl
@[simp] theorem irFire_ring (s : State) : (irFire s).ring = s.ring := rfl
@[simp] theorem irFire_wr (s : State) : (irFire s).wr = s.wr := rfl
@[simp] theorem irFire_ir (s : State) : (irFire s).ir = fireIr s.cfg s.ir := rfl
@[simp] theorem irFire_osc (s : State) : (irFire s).osc = s.osc := rfl
@[simp] theorem irFire_flags (s : State) : (irFire s).flags = s.flags := rfl
@[simp] theorem irFire_mouse (s : State) : (irFire s).mouse = s.mouse := rfl
@[simp] theorem irFire_resp (s : State) : (irFire s).resp = s.resp := rfl
@[simp] theorem irFire_sched (s : State) : (irFire s).sched = s.sched := rfl
@[simp] theorem irFire_draws (s : State) : (irFire s).draws = s.draws := rfl

@[simp] theorem oscStep_cfg (s : State) : (oscStep s).cfg = s.cfg := rfl
@[simp] theorem oscStep_now (s : State) : (oscStep s).now = s.now := rfl
@[simp] theorem oscStep_lines (s : State) : (oscStep s).lines = s.lines := rfl
@[simp] theorem oscStep_edge (s : State) : (oscStep s).edge = s.edge := rfl
@[simp] theorem oscStep_rx (s : State) : (oscStep s).rx = s.rx := rfl
@[simp] theorem oscStep_ring (s : State) : (oscStep s).ring = s.ring := rfl
@[simp] theorem oscStep_wr (s : State) : (oscStep s).wr = s.wr := rfl
@[simp] theorem oscStep_ir (s : State) : (oscStep s).ir = s.ir := rfl
@[simp] theorem oscStep_osc (s : State) : (oscStep s).osc = oscToggle s.cfg s.osc := rfl
@[simp] theorem oscStep_flags (s : State) : (oscStep s).flags = s.flags := rfl
@[simp] theorem oscStep_mouse (s : State) : (oscStep s).mouse = s.mouse := rfl
@[simp] theorem oscStep_resp (s : State) : (oscStep s).resp = s.resp := rfl
@[simp] theorem oscStep_sched (s : State) : (oscStep s).sched = s.sched := rfl
@[simp] theorem oscStep_draws (s : State) : (oscStep s).draws = s.draws := rfl

@[simp] theorem tick_cfg (s : State) : (tick s).cfg = s.cfg := rfl
@[simp] theorem tick_now (s : State) : (tick s).now = s.now + 1 := rfl
@[simp] theorem tick_lines (s : State) : (tick s).lines = s.lines := rfl
@[simp] theorem tick_edge (s : State) : (tick s).edge = s.edge := rfl
@[simp] theorem tick_rx (s : State) : (tick s).rx = s.rx := rfl
@[simp] theorem tick_ring (s : State) : (tick s).ring = s.ring := rfl
@[simp] theorem tick_wr (s : State) : (tick s).wr = s.wr := rfl
@[simp] theorem tick_ir (s : State) : (tick s).ir = { s.ir with tcnt := if s.ir.ten then s.ir.tcnt + 1 else s.ir.tcnt } := rfl
@[simp] theorem tick_osc (s : State) : (tick s).osc = s.osc := rfl
@[simp] theorem tick_flags (s : State) : (tick s).flags = s.flags := rfl
@[simp] theorem tick_mouse (s : State) : (tick s).mouse = s.mouse := rfl
@[simp] theorem tick_resp (s : State) : (tick s).resp = s.resp := rfl
@[simp] theorem tick_sched (s : State) : (tick s).sched = s.sched := rfl
@[simp] theorem tick_draws (s : State) : (tick s).draws = s.draws := rfl

@[simp] theorem rxSample_cfg (b : Bool) (s : State) : (rxSample b s).cfg = s.cfg := rfl
@[simp] theorem rxSample_now (b : Bool) (s : State) : (rxSample b s).now = s.now := rfl
@[simp] theorem rxSample_lines (b : Bool) (s : State) : (rxSample b s).lines = s.lines := rfl
@[simp] theorem rxSample_edge (b : Bool) (s : State) : (rxSample b s).edge = s.edge := rfl
@[simp] theorem rxSample_ring (b : Bool) (s : State) : (rxSample b s).ring = s.ring := rfl
@[simp] theorem rxSample_wr (b : Bool) (s : State) : (rxSample b s).wr = s.wr := rfl
@[simp] theorem rxSample_ir (b : Bool) (s : State) : (rxSample b s).ir = s.ir := rfl
@[simp] theorem rxSample_osc (b : Bool) (s : State) : (rxSample b s).osc = s.osc := rfl
@[simp] theorem rxSample_flags (b : Bool) (s : State) : (rxSample b s).flags = s.flags := rfl
@[simp] theorem rxSample_mouse (b : Bool) (s : State) : (rxSample b s).mouse = s.mouse := rfl
@[simp] theorem rxSample_resp (b : Bool) (s : State) : (rxSample b s).resp = s.resp := rfl
@[simp] theorem rxSample_sched (b : Bool) (s : State) : (rxSample b s).sched = s.sched := rfl
@[simp] theorem rxSample_draws (b : Bool) (s : State) : (rxSample b s).draws = s.draws := rfl
@[simp] theorem rxSample_bitcnt (b : Bool) (s : State) : (rxSample b s).rx.bitcnt = s.rx.bitcnt + 1 := rfl
@[simp] theorem rxSample_last (b : Bool) (s : State) : (rxSample b s).rx.last = s.now := rfl

/-- Settling the oscillator changes the oscillator only. -/
theorem oscSettle_eq (n : Nat) (s : State) : oscSettle n s = { s with osc := (oscSettle n s).osc } := by
  induction n generalizing s with
  | zero => rfl
  | succ n ih =>
    simp only [oscSettle]
    split
    · rw [ih]
      rfl
    · rfl

@[simp] theorem oscSettle_cfg (n : Nat) (s : State) : (oscSettle n s).cfg = s.cfg := by rw [oscSettle_eq]
@[simp] theorem oscSettle_now (n : Nat) (s : State) : (oscSettle n s).now = s.now := by rw [oscSettle_eq]
@[simp] theorem oscSettle_lines (n : Nat) (s : State) : (oscSettle n s).lines = s.lines := by rw [oscSettle_eq]
@[simp] theorem oscSettle_edge (n : Nat) (s : State) : (oscSettle n s).edge = s.edge := by rw [oscSettle_eq]
@[simp] theorem oscSettle_rx (n : Nat) (s : State) : (oscSettle n s).rx = s.rx := by rw [oscSettle_eq]
@[simp] theorem oscSettle_ring (n : Nat) (s : State) : (oscSettle n s).ring = s.ring := by rw [oscSettle_eq]
@[simp] theorem oscSettle_wr (n : Nat) (s : State) : (oscSettle n s).wr = s.wr := by rw [oscSettle_eq]
@[simp] theorem oscSettle_ir (n : Nat) (s : State) : (oscSettle n s).ir = s.ir := by rw [oscSettle_eq]
@[simp] theorem oscSettle_flags (n : Nat) (s : State) : (oscSettle n s).flags = s.flags := by rw [oscSettle_eq]
@[simp] theorem oscSettle_mouse (n : Nat) (s : State) : (oscSettle n s).mouse = s.mouse := by rw [oscSettle_eq]
@[simp] theorem oscSettle_resp (n : Nat) (s : State) : (oscSettle n s).resp = s.resp := by rw [oscSettle_eq]
@[simp] theorem oscSettle_sched (n : Nat) (s : State) : (oscSettle n s).sched = s.sched := by rw [oscSettle_eq]
@[simp] theorem oscSettle_draws (n : Nat) (s : State) : (oscSettle n s).draws = s.draws := by rw [oscSettle_eq]

/-- Where no toggle is due nothing settles. -/
theorem oscSettle_of_ne {s : State} (n : Nat) (h : s.now ≠ s.osc.due) : oscSettle n s = s := by
  cases n <;> simp [oscSettle, oscStepEnabled, h]

/-- Settling is a number of toggles. -/
theorem oscSettle_osc (n : Nat) (s : State) : ∃ k, k ≤ n ∧ (oscSettle n s).osc = (oscToggle s.cfg)^[k] s.osc := by
  induction n generalizing s with
  | zero => exact ⟨0, Nat.le_refl _, rfl⟩
  | succ n ih =>
    simp only [oscSettle]
    split
    · obtain ⟨k, hk, h⟩ := ih (oscStep s)
      exact ⟨k + 1, by omega, by rw [h]; rfl⟩
    · exact ⟨0, by omega, rfl⟩

end Sys2Proof.Machine
end

