-- ==== Sys2Proof/Laws/Receive.lean ====
section
/-! SUPPORT. What RX_SERVICE and RXPOP can do, said once: the fields they leave alone, the fields they write. -/

namespace Sys2Proof.Machine

@[simp] theorem rxService_cfg (s : State) : (rxService s).cfg = s.cfg := rfl
@[simp] theorem rxService_now (s : State) : (rxService s).now = s.now := rfl
@[simp] theorem rxService_lines (s : State) : (rxService s).lines = s.lines := rfl
@[simp] theorem rxService_edge (s : State) : (rxService s).edge = { rxie := s.edge.rxie, rxif := false } := rfl
@[simp] theorem rxService_wr (s : State) : (rxService s).wr = s.wr := rfl
@[simp] theorem rxService_ir (s : State) : (rxService s).ir = s.ir := rfl
@[simp] theorem rxService_osc (s : State) : (rxService s).osc = s.osc := rfl
@[simp] theorem rxService_mouse (s : State) : (rxService s).mouse = s.mouse := rfl
@[simp] theorem rxService_resp (s : State) : (rxService s).resp = s.resp := rfl
@[simp] theorem rxService_sched (s : State) : (rxService s).sched = s.sched := rfl
@[simp] theorem rxService_draws (s : State) : (rxService s).draws = s.draws := rfl
@[simp] theorem rxService_last (s : State) : (rxService s).rx.last = s.now := rfl
@[simp] theorem rxService_acc (s : State) :
    (rxService s).rx.acc = shiftIn s.rx.acc (dataLine s.lines) := rfl
@[simp] theorem rxService_wto (s : State) : (rxService s).flags.wto = s.flags.wto := rfl
@[simp] theorem rxService_ill (s : State) : (rxService s).flags.ill = s.flags.ill := rfl
@[simp] theorem rxService_wok (s : State) : (rxService s).flags.wok = s.flags.wok := rfl

/-- The count a sample is added to: the watchdog's (R153). -/
def countBefore (s : State) : BitVec 4 := if rxLate s then 0 else s.rx.bitcnt

theorem rxService_bitcnt (s : State) :
    (rxService s).rx.bitcnt = if countBefore s + 1 = s.cfg.lit.rxFrameLen then 0 else countBefore s + 1 := rfl

theorem rxService_rsy (s : State) :
    (rxService s).flags.rsy = (s.flags.rsy || (rxLate s && decide (s.rx.bitcnt ≠ 0))) := rfl

theorem rxService_ovf (s : State) :
    (rxService s).flags.ovf = (s.flags.ovf || (decide (countBefore s + 1 = s.cfg.lit.rxPushAt) && ringFull s.cfg s.ring)) := rfl

theorem rxService_ring (s : State) :
    (rxService s).ring = if decide (countBefore s + 1 = s.cfg.lit.rxPushAt) && !ringFull s.cfg s.ring then
      ringPush s.cfg (shiftIn s.rx.acc (dataLine s.lines)) s.ring else s.ring := rfl

/-- Only a service that completes a byte on a ring that is not full changes the ring. -/
theorem rxService_ring_cases (s : State) :
    (rxService s).ring = s.ring ∨
      (ringFull s.cfg s.ring = false ∧
        (rxService s).ring = ringPush s.cfg (shiftIn s.rx.acc (dataLine s.lines)) s.ring) := by
  rw [rxService_ring]
  split <;> simp_all

/-- RXPOP, both cases (R160, R161). -/
theorem rxpop_cases (s : State) :
    (s.ring.head = s.ring.tail ∧ rxpop s = respond 0x0000 s) ∨
      (s.ring.head ≠ s.ring.tail ∧
        rxpop s = respond (respByte (ringFront s.cfg s.ring)) { s with ring := ringDrop s.cfg s.ring }) := by
  unfold rxpop ringEmpty
  by_cases h : s.ring.head = s.ring.tail <;> simp [h]

theorem respValid_respByte (b : Byte) : respValid (respByte b) = true := by
  simp [respValid, respByte]

theorem respLow_respByte (b : Byte) : respLow (respByte b) = b := by
  revert b; decide

/-- Bits of the shift register after one more sample: bit 7 is the sample, the others move down by one (R154). -/
theorem shiftIn_getLsbD (acc : Byte) (d : Bool) (i : Fin 8) :
    (shiftIn acc d).getLsbD i.val = if i.val = 7 then d else acc.getLsbD (i.val + 1) := by
  revert acc d i; decide

end Sys2Proof.Machine
end

