-- ==== Sys2Proof/Laws/Writer.lean ====
section
/-! SUPPORT. What a step of the command writer can do, said once. -/

namespace Sys2Proof.Machine

/-- A change of the data driver cannot make an edge of the clock. -/
theorem setHdat_eq (v : Bool) (s : State) : setHdat v s = { s with lines.hdat := v } := by
  obtain ⟨_, _, ⟨hc, _, dc, _⟩, ⟨_, f⟩, _⟩ := s
  cases hc <;> cases dc <;> cases f <;> rfl

/-- Releasing the clock driver cannot make a falling edge. -/
theorem setHclk_true_eq (s : State) : setHclk true s = { s with lines.hclk := true } := by
  obtain ⟨_, _, ⟨hc, _, dc, _⟩, ⟨_, f⟩, _⟩ := s
  cases hc <;> cases dc <;> cases f <;> rfl

/-- Pulling the clock low latches an edge where the line was high. -/
theorem setHclk_false_eq (s : State) : setHclk false s =
    { s with lines.hclk := false, edge.rxif := s.edge.rxif || (s.lines.hclk && s.lines.dclk) } := by
  simp [setHclk, setLines, driveLines, clkLine]

/-- A failed poll spends one of the budget, or abandons the write (R187, R195). -/
theorem failedPoll_cases (s : State) :
    (s.wr.esc - 1 ≠ 0 ∧ failedPoll s = { s with wr.esc := s.wr.esc - 1 }) ∨
      (s.wr.esc - 1 = 0 ∧ failedPoll s = { s with
        wr.esc := 0, wr.ws := .idle, flags.wto := true, edge := { rxie := true, rxif := false } }) := by
  by_cases h : s.wr.esc - 1 = 0 <;> simp [failedPoll, h, abandonWrite, rearm, raiseFlag]

/-- The successful end of a write (R194). -/
theorem finishWrite_eq (s : State) : finishWrite s = { s with
    wr.ws := .idle, flags.wok := true, edge := { rxie := true, rxif := false } } := rfl

/-- W_POLL_LOW: a failed poll, or the slot's level placed and the wait for the high level begun (R189). -/
theorem wPollLow_cases (s : State) :
    (clkLine s.lines = true ∧ wPollLow s = failedPoll s) ∨
      (clkLine s.lines = false ∧ wPollLow s = { s with
        lines.hdat := slotLevel s.wr.wbyte s.wr.wi, wr.ws := .wh, wr.esc := s.cfg.escBudget }) := by
  by_cases h : clkLine s.lines = true <;> simp [wPollLow, h, setHdat_eq, enterWait]

/-- W_POLL_ACKL (R193). -/
theorem wPollAckL_cases (s : State) :
    (dataLine s.lines = true ∧ wPollAckL s = failedPoll s) ∨
      (dataLine s.lines = false ∧ wPollAckL s = enterWait .ah s) := by
  by_cases h : dataLine s.lines = true <;> simp [wPollAckL, h]

/-- W_POLL_ACKH (R194). -/
theorem wPollAckH_cases (s : State) :
    (dataLine s.lines = true ∧ wPollAckH s = finishWrite s) ∨
      (dataLine s.lines = false ∧ wPollAckH s = failedPoll s) := by
  by_cases h : dataLine s.lines = true <;> simp [wPollAckH, h]

end Sys2Proof.Machine
end

