-- ==== Sys2Proof/Laws/Step.lean ====
section
/-! SUPPORT. One step as one event: the two cases of `step`, the choice of the event, the effect of a guarded step. -/

namespace Sys2Proof.Machine

/-- Within the parameters of R8 a step is its event. -/
theorem step_eq {s : State} (h : s.cfg.wf = true) : step s = runEvent (nextEvent s) (takeEvent s) := by
  simp [step, stepBody, h]

/-- A step that answers a next state ran its event. -/
theorem step_next {s t : State} (h : step s = .next t) :
    s.cfg.wf = true ∧ runEvent (nextEvent s) (takeEvent s) = .next t := by
  unfold step stepBody at h
  split at h
  · exact ⟨‹_›, h⟩
  · cases h

theorem nextEvent_cons {s : State} {e : Event} {rest : List Event} (h : s.sched = e :: rest) : nextEvent s = e := by
  simp [nextEvent, h]

theorem takeEvent_cons {s : State} {e : Event} {rest : List Event} (h : s.sched = e :: rest) :
    takeEvent s = { s with sched := rest } := by
  simp [takeEvent, h]

/-- Choosing the event changes the schedule and the count of draws only. -/
theorem takeEvent_eq (s : State) :
    takeEvent s = { s with sched := (takeEvent s).sched, draws := (takeEvent s).draws } := by
  unfold takeEvent
  split <;> rfl

theorem whenEnabled_true {g : State → Bool} {f : State → State} {s : State} (h : g s = true) :
    whenEnabled g f s = f s := by simp [whenEnabled, h]

theorem whenEnabled_false {g : State → Bool} {f : State → State} {s : State} (h : g s = false) :
    whenEnabled g f s = s := by simp [whenEnabled, h]

/-- What holds before a guarded step and is kept by its effect under the guard holds after it. -/
theorem whenEnabled_inv {P : State → Prop} {g : State → Bool} {f : State → State} {s : State} (h : P s)
    (hf : g s = true → P (f s)) : P (whenEnabled g f s) := by
  unfold whenEnabled
  split
  · exact hf ‹_›
  · exact h

/-- A scheduled TICK: the receive service first, else the firing, else the microsecond ends, with the toggles of the
oscillator that fall in it (log entries 8 and 14). -/
theorem tickOrUrgent_cases (s : State) :
    (rxServiceEnabled s = true ∧ tickOrUrgent s = holdTick (rxService s)) ∨
      (rxServiceEnabled s = false ∧ irFireEnabled s = true ∧ tickOrUrgent s = holdTick (irFire s)) ∨
      (rxServiceEnabled s = false ∧ irFireEnabled s = false ∧ 
        tickOrUrgent s = tick (oscSettle (oscTogglesAtOnce s.cfg) s)) := by
  unfold tickOrUrgent
  cases rxServiceEnabled s <;> cases irFireEnabled s <;> simp

end Sys2Proof.Machine
end

