-- ==== Sys2Proof/Tests/Slice0.lean ====
section
/-! SUPPORT. Tests: words written out from 30_encoding.md, ill-formed terms that the checks refuse, single steps whose
expected values stand in 95_test_vectors.md, and a witness for the hypotheses of every obligation that has some. -/

namespace Sys2Proof.Tests

open Sys2Proof.Machine

/-! ### Helpers -/

/-- The state after one step that takes the event `e`. -/
def after (e : Event) (s : State) : Option State :=
  match step { s with sched := [e] } with
  | .next t => some t
  | .fault _ => none
  | .refused _ => none

/-- Reset with the receive interrupt enabled. -/
def rxOn : State := { State.reset with edge.rxie := true }

/-- Reset with a capacity of 4 (`RB_LOG2 = 2`, the least that R158 allows). -/
def cap4 : State := { State.reset with cfg := { Params.standard with rbLog2 := 2 } }

/-- A ring with the given bytes, oldest first, from slot 0. -/
def withBytes (l : List Byte) (s : State) : State := { s with ring := l.foldl (fun r b => ringPush s.cfg b r) s.ring }

/-- A writer in the state `ws` at slot `wi` with `esc` polls left and the byte 0xF4. -/
def writing (ws : WState) (wi : Fin 10) (esc : Nat) : State :=
  { State.reset with wr := { ws := ws, wi := wi, wbyte := 0xF4, esc := esc, wt0 := 0 } }

/-- A due firing in phase `ph` with the code 0xA5C. -/
def firing (ph : BitVec 6) : State :=
  { State.reset with ir := { ph := ph, sr := 0x0A5C, tcnt := 400, ocr := 400, ten := true, gate := true } }

/-! ### Decoding: each word is written bit by bit, opcode field then operand field (R111 to R113) -/

theorem test_word_nop : decode 0b0000_000000000000 = .nop := by decide
theorem test_word_nop_ignored_bits : decode 0b0000_101010111100 = .nop := by decide
theorem test_word_irsend : decode 0b0001_101001011100 = .irsend 0xA5C := by decide
theorem test_word_irrpt : decode 0b0010_101010111100 = .irrpt := by decide
theorem test_word_ps2wr : decode 0b0011_101011110100 = .ps2wr 0xF4 := by decide
theorem test_word_rxpop : decode 0b0100_111111111111 = .rxpop := by decide
theorem test_word_rxcnt : decode 0b0101_000100100011 = .rxcnt := by decide
theorem test_word_rdst : decode 0b0110_111111111111 = .rdst := by decide
theorem test_word_clrf_ovf : decode 0b0111_000000010000 = .clrf 0b00001 := by decide
theorem test_word_clrf_wok : decode 0b0111_000100000000 = .clrf 0b10000 := by decide
theorem test_word_rxen_off : decode 0b1000_111111111110 = .rxen false := by decide
theorem test_word_rxen_on : decode 0b1000_000000000011 = .rxen true := by decide
theorem test_word_reserved_9_a_b : decode 0b1001_000000000000 = .reserved9 ∧ decode 0b1010_000000000001 = .reservedA ∧
    decode 0b1011_111111111111 = .reservedB := by decide
theorem test_word_reserved_c_to_f : decode 0b1100_000000000000 = .reservedC ∧ decode 0b1101_000000000000 = .reservedD ∧
    decode 0b1110_000000000000 = .reservedE ∧ decode 0b1111_000100100011 = .reservedF := by decide
theorem test_table_word : decodeTableWord 16 0x1A5C = some (.irsend 0xA5C) ∧ decodeTableWord 16 0x4FFF = some .rxpop ∧
    decodeTableWord 32 0 = none := by decide
theorem test_port_rejects_by_name : decodePort 17 0x1A5C = .error .widerThanOneWord := rfl
/-- The examples of R116 and the pseudo-instructions of R117. -/
theorem test_assemble : assemble (.irsend 0xA5C) = 0x1A5C ∧ assemble (.ps2wr 0xF4) = 0x30F4 ∧
    assemble (.clrf 0x1F0) = assemble .clrall ∧ assemble (.rxen 1) = assemble .rxon ∧
    assemble (.rxen 0) = assemble .rxoff := by decide

/-! ### Ill-formed terms, one for each check -/

theorem test_params_standard_wf : Params.standard.wf = true := by decide
theorem test_illformed_rxPushAt_low : { Literals.d00 with rxPushAt := 7 }.wf = false := by decide
theorem test_illformed_rxPushAt_high : { Literals.d00 with rxPushAt := 11 }.wf = false := by decide
theorem test_illformed_tStart : { Literals.d00 with tStart := 0 }.wf = false := by decide
theorem test_illformed_tGapCode : { Literals.d00 with tGapCode := 0 }.wf = false := by decide
theorem test_illformed_tGapRpt : { Literals.d00 with tGapRpt := 0 }.wf = false := by decide
theorem test_illformed_tPulse : { Literals.d00 with tPulse := 0 }.wf = false := by decide
theorem test_illformed_tZero : { Literals.d00 with tZero := 0 }.wf = false := by decide
theorem test_illformed_tOne : { Literals.d00 with tOne := 0 }.wf = false := by decide
theorem test_illformed_complAt_even : { Literals.d00 with complAt := 24 }.wf = false := by decide
theorem test_illformed_complAt_high : { Literals.d00 with complAt := 49 }.wf = false := by decide
theorem test_illformed_literals : { Params.standard with lit := { Literals.d00 with tStart := 0 } }.wf = false := by decide
theorem test_illformed_rbLog2_low : { Params.standard with rbLog2 := 1 }.wf = false := by decide
theorem test_illformed_rbLog2_high : { Params.standard with rbLog2 := 17 }.wf = false := by decide
theorem test_illformed_tClkReq : { Params.standard with tClkReq := 99 }.wf = false := by decide
theorem test_illformed_tRts : { Params.standard with tRts := 0 }.wf = false := by decide
theorem test_illformed_escBudget : { Params.standard with escBudget := 0 }.wf = false := by decide
theorem test_illformed_carrierHz : { Params.standard with carrierHz := 0 }.wf = false := by decide
theorem test_illformed_duty_zero : { Params.standard with dutyNum := 0 }.wf = false := by decide
theorem test_illformed_duty_one : { Params.standard with dutyNum := 2 }.wf = false := by decide
theorem test_illformed_irsend : assembleLine (.irsend 4096) = .error .numeralOutOfRange := rfl
theorem test_illformed_ps2wr : assembleLine (.ps2wr 256) = .error .numeralOutOfRange := rfl
theorem test_illformed_clrf : assembleLine (.clrf 4096) = .error .numeralOutOfRange := rfl
theorem test_illformed_rxen : assembleLine (.rxen 2) = .error .numeralOutOfRange := rfl

/-! ### Single steps: host commands -/

/-- V-HS4: no response but 0x0000, no change. -/
theorem test_nop : after (.host 0x0ABC) rxOn = some rxOn := by decide
/-- V-HS1: after reset 0x0C00, after `RXEN 1` 0x0C02. -/
theorem test_rdst_idle : (after (.host 0x6000) State.reset).map (·.resp) = some 0x0C00 ∧
    (after (.host 0x6FFF) rxOn).map (·.resp) = some 0x0C02 := by decide
/-- V-HS1: the start pulse of a code frame, one byte waiting, receive enabled. -/
theorem test_rdst_busy : (after (.host 0x6000)
    { withBytes [1] rxOn with ir := armIr rxOn.cfg.lit phStart rxOn.ir }).map (·.resp) = some 0x0E0B := by decide
/-- V-HS2: `CLRF 0x0A0` clears `RSY` and `ILL` only. -/
theorem test_clrf : (after (.host 0x70A0) { rxOn with flags := ⟨true, true, true, true, true⟩ }).map (·.flags) =
    some ⟨true, false, true, false, true⟩ := by decide
/-- V-HS2: bits 3:0 and 11:9 of the operand are ignored. -/
theorem test_clrf_ignored : (after (.host 0x7E0F) { rxOn with flags := ⟨true, true, true, true, true⟩ }).map (·.flags) =
    some ⟨true, true, true, true, true⟩ := by decide
/-- V-HS3. -/
theorem test_reserved : after (.host 0xF123) rxOn = some { rxOn with flags.ill := true } ∧
    after (.host 0x9000) rxOn = some { rxOn with flags.ill := true } := by decide
/-- V-RX8: a popped byte 0x00 answers 0x8000 and the index wraps. -/
theorem test_rxpop : (after (.host 0x4000) { rxOn with ring := { buf := [], head := 15, tail := 2 } }).map
    (fun t => (t.resp, t.ring.head)) = some (0x8000, 0) := by decide
/-- V-RX8: an empty ring answers 0x0000 and keeps `HEAD`. -/
theorem test_rxpop_empty : (after (.host 0x4000) { rxOn with ring := { buf := [(7, 5)], head := 7, tail := 7 } }).map
    (fun t => (t.resp, t.ring.head)) = some (0x0000, 7) := by decide
/-- V-RX8: `(2 - 14) & 15 = 4`. -/
theorem test_rxcnt : (after (.host 0x5000) { rxOn with ring := { buf := [], head := 14, tail := 2 } }).map (·.resp) =
    some 0x0004 := by decide
/-- V-PIN3: the latch is clear after the enable. -/
theorem test_rxen_on : after (.host 0x8003) { State.reset with edge.rxif := true } =
    some { rxOn with resp := 0x0001 } := by decide
/-- V-RX9: rejected while the writer is busy. -/
theorem test_rxen_busy : after (.host 0x8001) (writing .req 0 0) = some (writing .req 0 0) := by decide
/-- V-WR2, V-PIN2: the clock goes low at once, the core's own pull-down is an edge, reception is off. -/
theorem test_ps2wr : (after (.host 0x3AF4) { rxOn with now := 9, flags.wok := true }).map
    (fun t => (t.resp, t.wr, t.lines.hclk, t.edge, t.flags.wok)) =
    some (0x0001, ⟨.req, 0, 0xF4, 0, 9⟩, false, ⟨false, true⟩, false) := by decide
/-- V-WR5: a second write is rejected and `WBYTE` stays. -/
theorem test_ps2wr_busy : after (.host 0x30AA) (writing .req 0 0) = some (writing .req 0 0) := by decide
/-- V-IR1, V-IR4: the arm, in the middle of a frame. -/
theorem test_irsend : (after (.host 0x1123) (firing 3)).map (fun t => (t.resp, t.ir)) =
    some (0x0001, ⟨0, 0x0123, 0, 9000, true, true⟩) := by decide
/-- V-IR7: the zero code. -/
theorem test_irsend_zero : after (.host 0x1000) (firing 3) = some (firing 3) := by decide
/-- V-IR3. -/
theorem test_irrpt : (after (.host 0x2000) State.reset).map (fun t => (t.resp, t.ir)) =
    some (0x0001, ⟨52, 0, 0, 9000, true, true⟩) := by decide

/-! ### Single steps: the engines and the environment -/

/-- V-RX1, sample 9: the byte is pushed. -/
theorem test_rx_ninth_sample : (after .rxService { rxOn with
      now := 740, edge.rxif := true, rx := { acc := 0xF4, bitcnt := 8, last := 660 } }).map
    (fun t => (t.rx, t.ring, t.edge.rxif)) = some (⟨0xFA, 9, 740⟩, ⟨[(0, 0xFA)], 0, 1⟩, false) := by decide
/-- V-RX5: 5001 us discard a partial frame, 5000 us do not. -/
theorem test_rx_watchdog : (after .rxService { rxOn with
      now := 5341, edge.rxif := true, rx := { acc := 0x40, bitcnt := 4, last := 340 } }).map
    (fun t => (t.rx.bitcnt, t.flags.rsy)) = some (1, true) ∧
    (after .rxService { rxOn with
      now := 5340, edge.rxif := true, rx := { acc := 0x40, bitcnt := 4, last := 340 } }).map
    (fun t => (t.rx.bitcnt, t.flags.rsy)) = some (5, false) := by decide
/-- V-RX3: the fourth byte is dropped on a ring of capacity 4. -/
theorem test_rx_overflow : (after .rxService { withBytes [0x11, 0x22, 0x33] cap4 with
      edge := ⟨true, true⟩, rx := { acc := 0, bitcnt := 8, last := 0 } }).map
    (fun t => (t.ring.tail, t.ring.buf, t.flags.ovf)) =
    some (3, [(0, 0x11), (1, 0x22), (2, 0x33)], true) := by decide
/-- V-WR2 at 100 and at 99. -/
theorem test_w_req_done : (after .wReqDone { writing .req 0 0 with now := 100, lines.hclk := false }).map
      (fun t => (t.wr.ws, t.wr.wt0, t.lines.hdat, t.lines.hclk)) = some (.rts, 100, false, false) ∧
    (after .wReqDone { writing .req 0 0 with now := 99 }).map (·.wr.ws) = some .req := by decide
/-- V-WR2 at 110: the clock is released and the budget loaded. -/
theorem test_w_rts_done : (after .wRtsDone { writing .rts 0 0 with
      now := 110, wr.wt0 := 100, lines.hclk := false, lines.hdat := false }).map
    (fun t => (t.wr.ws, t.wr.esc, t.lines.hclk)) = some (.wl, 1000, true) := by decide
/-- V-WR1: slots 2, 8 and 9 of 0xF4 place 1, the parity 0 and the stop level 1. -/
theorem test_w_poll_low : (after .wPollLow { writing .wl 2 5 with lines.dclk := false, lines.hdat := false }).map
      (fun t => (t.wr.ws, t.lines.hdat)) = some (.wh, true) ∧
    (after .wPollLow { writing .wl 8 5 with lines.dclk := false }).map (·.lines.hdat) = some false ∧
    (after .wPollLow { writing .wl 9 5 with lines.dclk := false, lines.hdat := false }).map (·.lines.hdat) =
      some true := by decide
/-- V-WR2 at 841 and 921. -/
theorem test_w_poll_high : (after .wPollHigh (writing .wh 8 5)).map (fun t => (t.wr.ws, t.wr.wi)) = some (.wl, 9) ∧
    (after .wPollHigh (writing .wh 9 5)).map (fun t => (t.wr.ws, t.wr.wi)) = some (.al, 9) := by decide
/-- V-WR2 at 941 and 1021. -/
theorem test_w_poll_ack : (after .wPollAckL { writing .al 9 5 with lines.ddat := false }).map (·.wr.ws) = some .ah ∧
    (after .wPollAckH { writing .ah 9 5 with edge.rxif := true }).map (fun t => (t.wr.ws, t.flags.wok, t.edge)) =
      some (.idle, true, ⟨true, false⟩) := by decide
/-- V-WR3: the last failed poll abandons the write and leaves the data line low. -/
theorem test_w_abandon : (after .wPollLow { writing .wl 0 1 with lines.hdat := false, edge.rxif := true }).map
    (fun t => (t.wr.ws, t.flags.wto, t.edge, t.lines.hdat)) = some (.idle, true, ⟨true, false⟩, false) := by decide
/-- V-IR1, firings 26 and 51. -/
theorem test_ir_fire : (after .irFire (firing 25)).map (·.ir) = some ⟨26, 0xF5A3, 0, 400, true, true⟩ ∧
    (after .irFire (firing 50)).map (·.ir) = some ⟨51, 0x0A5C, 0, 400, false, false⟩ := by decide
/-- V-IR1, firing 3: data bit 1 of 0xA5C is 1. V-IR3, the repeat frame's gap. -/
theorem test_ir_fire_gap : (after .irFire (firing 2)).map (fun t => (t.ir.ph, t.ir.ocr, t.ir.gate)) =
      some (3, 1200, false) ∧
    (after .irFire (firing 52)).map (fun t => (t.ir.ph, t.ir.ocr, t.ir.gate)) = some (49, 2100, false) := by decide
/-- V-PIN2, first and third row. -/
theorem test_dev_drive : (after (.devDrive (some false) none) State.reset).map (fun t => (t.edge.rxif, t.lines.dclk)) =
      some (true, false) ∧
    (after (.devDrive (some false) none) { State.reset with lines.hclk := false }).map (·.edge.rxif) =
      some false := by decide
/-- R52: a microsecond passes, and with it the toggle that falls in it (R252); R11: an urgent step goes first. -/
theorem test_tick : (after .tick { firing 2 with ir.tcnt := 399 }).map
      (fun t => (t.now, t.ir.tcnt, t.osc.level, t.osc.due)) = some (1, 400, true, 500000) ∧
    (after .tick (firing 2)).map (fun t => (t.now, t.ir.ph, t.sched)) = some (0, 3, [.tick]) := by decide
/-- R252 with the standard parameters: half a period of 1 Hz later. -/
theorem test_osc_step : (after .oscStep State.reset).map (fun t => (t.osc.level, t.osc.due)) =
    some (true, 500000) := by decide
/-- R252 at 40 kHz and a duty of 1/3: high for 8 1/3 us, low for 16 2/3 us. -/
theorem test_osc_wave :
    (let p := { Params.standard with carrierHz := 40000, dutyDen := 3 }
     let o : Oscillator := { level := false, due := 0, frac := 0 }
     ((oscToggle p o).due, (oscToggle p (oscToggle p o)).due) = (8, 25)) := by decide
/-- P5, call 2, its last command: V-MD1's result 0x24. -/
theorem test_mouse : (after .mouseDecode
    { withBytes [0xFD] rxOn with mouse.phase := .needY 0x28 0x05 }).map (fun t => (t.mouse, t.ring.head)) =
    some (⟨0, .idle, 0x24⟩, 1) := by decide

/-! ### Witnesses: each obligation's hypotheses are met, every clause's at a boundary of its range -/

theorem test_witness_OperandsAreReadAndIgnoredBitsAreIgnored :
    opField 0x1FFF = 0x1 ∧ opField 0x3FFF = 0x3 ∧ opField 0x7FFF = 0x7 ∧ opField 0x8FFF = 0x8 ∧
    opField 0x0FFF = 0x0 ∧ opField 0x2FFF = 0x2 ∧ opField 0x4FFF = 0x4 ∧
    opField 0x5FFF = 0x5 ∧ opField 0x6FFF = 0x6 ∧ opField 0x7E1F = opField 0x7010 ∧
    argField 0x7E1F &&& careArg (opField 0x7E1F) = argField 0x7010 &&& careArg (opField 0x7E1F) := by decide
theorem test_witness_AssembledLinesDecode : 4095 < 4096 ∧ 255 < 256 ∧
    decode (assemble (.irsend 4095)) = .irsend 0xFFF ∧ decode (assemble (.ps2wr 255)) = .ps2wr 0xFF ∧
    decode (assemble (.clrf 4095)) = .clrf 0x1F := by decide
theorem test_witness_StepRunsTheScheduledCommand :
    State.reset.cfg.wf = true ∧ (State.reset.withFetchWord 16 0x4000).sched = [.host 0x4000] ∧
      decode 0x4000 = .rxpop := by decide
theorem test_witness_FetchWordIsTheNextCommand : State.reset.cfg.wf = true ∧ 65535 < 65536 := by decide
theorem test_witness_EveryStepCompletes :
    Params.standard.wf = true ∧ { Params.standard with rbLog2 := 1 }.wf = false := by decide
theorem test_witness_ClrfClearsTheMaskedFlags : opField 0x7E00 = 0x7 := by decide
theorem test_witness_ReservedWordsSetIllOnly : 0x9 ≤ opField 0x9000 ∧ 0x9 ≤ opField 0xFFFF ∧
    Instr.reserved9 ∈ [Instr.reserved9, .reservedA, .reservedB, .reservedC, .reservedD, .reservedE, .reservedF] := by
  decide
theorem test_witness_RxpopAnswersTheSlotAtHead :
    rxOn.ring.head = rxOn.ring.tail ∧ (withBytes [1] rxOn).ring.head ≠ (withBytes [1] rxOn).ring.tail := by decide
theorem test_witness_RxenAndPs2wr : (writing .ah 9 1).wr.ws ≠ .idle ∧ rxOn.wr.ws = .idle := by decide
theorem test_witness_IrsendArmsACodeFrame : (0 : BitVec 12) = 0 ∧ (1 : BitVec 12) ≠ 0 := by decide
theorem test_witness_HostCommandFrame : (∃ t, exec (.ps2wr 0xF4) rxOn = .next t) ∧ (∃ t, exec .rdst rxOn = .next t) ∧
    (∃ t, exec .reservedF rxOn = .next t) ∧ 0x9 ≤ Instr.reservedF.op ∧ ¬ 0x9 ≤ Instr.rdst.op :=
  ⟨⟨_, rfl⟩, ⟨_, rfl⟩, ⟨_, rfl⟩, by decide, by decide⟩
theorem test_witness_FallingClockEdgesAreLatched :
    (rxOn.lines.hclk && rxOn.lines.dclk) = true ∧ (false && rxOn.lines.dclk) = false := by decide
theorem test_witness_RxServiceSamplesShiftsAndCounts :
    (rxOn.edge.rxie && rxOn.edge.rxif) = false ∧
      (let s := { rxOn with edge.rxif := true }; (s.edge.rxie && s.edge.rxif) = true) := by decide
theorem test_witness_OneServiceRaisesAtMostOneCause : rxOn.cfg.wf = true ∧ rxOn.flags.rsy = false ∧ rxOn.flags.ovf = false := by decide
theorem test_witness_NineSamplesFormTheByte :
    rxOn.edge.rxie = true ∧ rxOn.lines.hclk = true ∧ rxOn.lines.hdat = true ∧ rxOn.rx.bitcnt = 0 ∧
      rxOn.cfg.lit.rxPushAt = 9 ∧ rxOn.cfg.lit.rxFrameLen = 11 ∧
      ∀ i : Fin 9, 0 < i.val → (fun _ : Fin 9 => (5000 : Micros)) i ≤ rxOn.cfg.lit.tResync := by decide
theorem test_witness_EveryByteDecodes :
    rxOn.cfg.wf = true ∧ RingInv rxOn ∧ rxOn.edge.rxie = true ∧ rxOn.edge.rxif = false ∧ rxOn.lines.hclk = true ∧
      rxOn.lines.hdat = true ∧ rxOn.rx.bitcnt = 0 ∧ ringFull rxOn.cfg rxOn.ring = false ∧
      (List.replicate 11 (5000 : Micros)).length = 11 ∧
      rxOn.cfg.lit.rxPushAt = 9 ∧ rxOn.cfg.lit.rxFrameLen = 11 ∧
      ∀ x ∈ (List.replicate 11 (5000 : Micros)).tail, x ≤ rxOn.cfg.lit.tResync :=
  ⟨by decide, by decide, rfl, rfl, rfl, rfl, rfl, by decide, rfl, rfl, rfl,
    fun _ hx => by rw [List.eq_of_mem_replicate hx]; decide⟩
theorem test_witness_AFrameAfterAGapDecodes :
    (let s := { rxOn with rx.bitcnt := 4 }
     s.edge.rxie = true ∧ s.lines.hclk = true ∧ s.lines.hdat = true ∧ s.cfg.lit.tResync < s.now + 5001 - s.rx.last ∧
       ringFull s.cfg s.ring = false) ∧
      (List.replicate 10 (80 : Micros)).length = 10 ∧ (∀ x ∈ List.replicate 10 (80 : Micros), x ≤ rxOn.cfg.lit.tResync) ∧
      ringFull cap4.cfg (withBytes [1, 2, 3] cap4).ring = true :=
  ⟨by decide, rfl, fun _ hx => by rw [List.eq_of_mem_replicate hx]; decide, by decide⟩
theorem test_witness_TheNinthSampleAppendsOrDrops :
    (let s := { rxOn with rx.bitcnt := 8, now := 5000 }
     s.cfg.wf = true ∧ s.cfg.lit.rxPushAt = 9 ∧ s.cfg.lit.rxFrameLen = 11 ∧ RingInv s ∧ s.rx.bitcnt = 8 ∧
       s.now - s.rx.last ≤ s.cfg.lit.tResync ∧ ringFull s.cfg s.ring = false) ∧
    (let s := { withBytes [1, 2, 3] cap4 with rx.bitcnt := 8 }
     s.cfg.wf = true ∧ s.cfg.lit.rxPushAt = 9 ∧ s.cfg.lit.rxFrameLen = 11 ∧ RingInv s ∧ s.rx.bitcnt = 8 ∧
       s.now - s.rx.last ≤ s.cfg.lit.tResync ∧ ringFull s.cfg s.ring = true) := by
  decide
theorem test_witness_RxpopTakesTheOldestEntry :
    (withBytes [1, 2, 3] cap4).cfg.wf = true ∧ RingInv (withBytes [1, 2, 3] cap4) ∧
      ringEntries cap4.cfg (withBytes [1, 2, 3] cap4).ring = [1, 2, 3] := by decide
theorem test_witness_ACountedByteCanBePopped :
    2 < (ringCount cap4.cfg (withBytes [1, 2, 3] cap4).ring).toNat ∧ RingInv (withBytes [1, 2, 3] cap4) ∧
      cap4.cfg.wf = true := by decide
theorem test_witness_TheScriptOfAFrameDeliversItsByte :
    (let s : State := { rxOn with sched := frameEvents 0xFA ++ [Event.tick] }
     s.cfg.wf = true ∧ s.cfg.lit = .d00 ∧ s.sched = frameEvents 0xFA ++ [Event.tick] ∧ s.edge = { rxie := true, rxif := false } ∧
       s.lines = { hclk := true, hdat := true, dclk := true, ddat := true } ∧ s.rx.bitcnt = 0 ∧ s.ir.ten = false ∧
       ringFull s.cfg s.ring = false) := ⟨by decide, rfl, rfl, rfl, rfl, rfl, rfl, by decide⟩
theorem test_witness_TimedHoldsEndAtTheirBound :
    (let s := { writing .req 0 0 with now := 100 }; s.wr.ws = .req ∧ s.cfg.tClkReq ≤ s.now - s.wr.wt0) ∧
    (let s := { writing .rts 0 0 with now := 10 }; s.wr.ws = .rts ∧ s.cfg.tRts ≤ s.now - s.wr.wt0) ∧
    (let s := { writing .req 0 0 with now := 99 }; ¬ (s.wr.ws = .req ∧ s.cfg.tClkReq ≤ s.now - s.wr.wt0)) ∧
    (let s := { writing .rts 0 0 with now := 9 }; ¬ (s.wr.ws = .rts ∧ s.cfg.tRts ≤ s.now - s.wr.wt0)) := by decide
theorem test_witness_PollLowPlacesTheBit :
    (let s := { writing .wl 7 1 with lines.dclk := false }
     s.wr.ws = .wl ∧ (s.lines.hclk && s.lines.dclk) = false ∧ s.wr.wi.val = (7 : Fin 8).val) ∧
    (writing .wl 8 1).wr.wi = 8 ∧ (writing .wl 9 1).wr.wi = 9 ∧
    (let s := writing .wl 0 2; s.wr.ws = .wl ∧ (s.lines.hclk && s.lines.dclk) = true ∧ 1 < s.wr.esc) ∧
    (writing .wl 0 1).wr.esc = 1 := by decide
theorem test_witness_PollHighEndsTheSlot :
    (let s := writing .wh 8 1
     s.wr.ws = .wh ∧ (s.lines.hclk && s.lines.dclk) = true ∧ s.wr.wi.val < 9 ∧ (9 : Fin 10).val = s.wr.wi.val + 1) ∧
    (writing .wh 9 1).wr.wi = 9 ∧
    (let s := { writing .wh 0 1 with lines.dclk := false }
     s.wr.ws = .wh ∧ (s.lines.hclk && s.lines.dclk) = false ∧ s.wr.esc = 1) ∧ 1 < (writing .wh 0 2).wr.esc := by decide
theorem test_witness_AcknowledgementEndsTheWrite :
    (let s := { writing .al 9 1 with lines.ddat := false }
     s.wr.ws = .al ∧ (s.lines.hdat && s.lines.ddat) = false) ∧
    (let s := writing .al 9 1; s.wr.ws = .al ∧ (s.lines.hdat && s.lines.ddat) = true ∧ s.wr.esc = 1) ∧
    (writing .ah 9 1).wr.ws = .ah ∧ ((writing .ah 9 1).lines.hdat && (writing .ah 9 1).lines.ddat) = true ∧
    (let s := { writing .ah 9 2 with lines.ddat := false }
     s.wr.ws = .ah ∧ (s.lines.hdat && s.lines.ddat) = false ∧ 1 < s.wr.esc) := by decide
theorem test_witness_AnUnresponsiveDeviceExhaustsTheBudget :
    (let s := writing .wl 0 1; s.wr.ws = .wl ∧ (s.lines.hclk && s.lines.dclk) = true ∧ 1 ≤ s.wr.esc) := by decide
theorem test_witness_AWritePlacesByteParityAndStop :
    (let s := writing .wl 0 1; s.wr.ws = .wl ∧ s.wr.wi = 0 ∧ s.lines.hclk = true) := by decide
/-- A writer that waits for the acknowledgement meets the invariant of the handshake and polls. -/
theorem test_witness_TheQuantityOfPollsIsBounded :
    WriterInv (writing .al 9 1000) ∧ waiting (writing .al 9 1000).wr.ws = true := by decide
theorem test_witness_NothingIsReceivedDuringAWrite :
    WriterInv (writing .al 9 1000) ∧ (writing .al 9 1000).wr.ws ≠ .idle ∧ Event.rxService ≠ .reset ∧
      ∃ t, runEvent .rxService (writing .al 9 1000) = .next t := ⟨by decide, by decide, by decide, _, rfl⟩
theorem test_witness_EnablingNeverLeavesAStaleEdge :
    ∃ t, runEvent (.host 0x8001) { State.reset with edge.rxif := true } = .next t ∧
      State.reset.edge.rxie = false ∧ t.edge.rxie = true := ⟨_, rfl, by decide, by decide⟩
theorem test_witness_AFiringDoesWhatItsPhaseNames :
    ¬ (State.reset.ir.ten = true ∧ State.reset.ir.tcnt = State.reset.ir.ocr) ∧
    (firing 0).ir.ten = true ∧ (firing 0).ir.tcnt = (firing 0).ir.ocr ∧ (firing 0).ir.ph = 0 ∧
    (firing 47).ir.ph = BitVec.ofNat 6 47 ∧ 47 % 2 = 1 ∧ (firing 48).ir.ph = BitVec.ofNat 6 48 ∧ 48 % 2 = 0 ∧
    (firing 49).ir.ph = 49 ∧ (firing 50).ir.ph = 50 ∧ (firing 51).ir.ph = 51 ∧ 53 ≤ (firing 63).ir.ph ∧
    (firing 52).ir.ph = 52 := by decide
theorem test_witness_AnArmForgetsTheFrameInFlight :
    (∃ t t', exec (.irsend 0xFFF) (firing 3) = .next t ∧ exec (.irsend 0xFFF) State.reset = .next t') ∧
      (0xFFF : BitVec 12) ≠ 0 ∧ (firing 3).ir.sr = (firing 9).ir.sr ∧ (firing 3).cfg.lit = State.reset.cfg.lit ∧
      (∃ t t', exec .irrpt (firing 3) = .next t ∧ exec .irrpt (firing 9) = .next t') :=
  ⟨⟨_, _, rfl, rfl⟩, by decide, rfl, rfl, ⟨_, _, rfl, rfl⟩⟩
theorem test_witness_TheTimerMatchesAfterExactlyOcrTicks :
    (let s := { firing 2 with ir.tcnt := 0 }; s.ir.ten = true ∧ s.ir.tcnt = 0 ∧ 400 ≤ s.ir.ocr.toNat) := by decide
theorem test_witness_AStoppedEngineWaitsForAnArm :
    (∃ t, runEvent (.host 0x6000) State.reset = .next t) ∧ State.reset.ir.ten = false ∧
      decode 0x6000 = .rdst ∧ Event.host 0x6000 ≠ .reset := ⟨⟨_, rfl⟩, by decide, by decide, by decide⟩
theorem test_witness_ServicesCommuteAndArmsReplaceFirings :
    (∃ t, exec .irrpt (firing 9) = .next t) ∧ (∃ t, exec (.irsend 1) (firing 9) = .next t) ∧
      irFireEnabled (firing 9) = true ∧ (firing 9).cfg.wf = true := ⟨⟨_, rfl⟩, ⟨_, rfl⟩, by decide, by decide⟩
theorem test_witness_TheOscillatorIsASquareWave : Params.standard.wf = true ∧ State.reset.now = State.reset.osc.due ∧
    (let s := { State.reset with now := 1 }; s.now ≠ s.osc.due) ∧ (firing 0).ir.gate = true ∧
    State.reset.ir.gate = false := by decide
/-- A TICK in the microsecond of a toggle. -/
theorem test_witness_NoToggleIsEarlyOrMissed : State.reset.cfg.wf = true ∧ OscInv State.reset ∧
    State.reset.now = State.reset.osc.due ∧ Event.tick ≠ .reset ∧
    (∃ t, runEvent .tick State.reset = .next t ∧ t.now ≠ State.reset.now) ∧
    (let s := { State.reset with now := 1 }; s.now ≠ s.osc.due) :=
  ⟨by decide, by decide, by decide, by decide, ⟨_, rfl, by decide⟩, by decide⟩
theorem test_witness_TheParametersAreFixed : ∃ t, step (State.reset.withFetchWord 16 0x1A5C) = .next t := ⟨_, rfl⟩
theorem test_witness_IrsendSendsTheCodeFrame : (1 : BitVec 12) ≠ 0 ∧ State.reset.cfg.lit.complAt = 25 ∧
    State.reset.cfg.lit = .d00 := by decide
theorem test_witness_TickWaitsForUrgentSteps :
    (rxOn.edge.rxie && rxOn.edge.rxif) = false ∧ ¬ (rxOn.ir.ten = true ∧ rxOn.ir.tcnt = rxOn.ir.ocr) ∧
      rxOn.now = rxOn.osc.due ∧ (let s := { rxOn with now := 1 }; s.now ≠ s.osc.due) ∧
      (firing 0).ir.ten = true ∧ (firing 0).ir.tcnt = (firing 0).ir.ocr := by decide
theorem test_witness_ResetGivesTheValuesOfTheSpec : ResetValues State.reset := by decide
theorem test_witness_AQuiescentCoreWaitsForTheHost :
    (∃ t, runEvent (.devDrive (some false) none) State.reset = .next t) ∧ State.reset.edge.rxie = false ∧
      State.reset.wr.ws = .idle ∧ State.reset.ir.ten = false := ⟨⟨_, rfl⟩, by decide, by decide, by decide⟩
theorem test_witness_InternalStepFrame :
    (∃ t, runEvent .rxService { rxOn with edge.rxif := true } = .next t) ∧
    (∃ t, runEvent .wPollHigh (writing .wh 8 1) = .next t) ∧ (∃ t, runEvent .irFire (firing 50) = .next t) ∧
    (∃ t, runEvent .oscStep State.reset = .next t) ∧
    (∃ t, runEvent (.devDrive none (some false)) State.reset = .next t) :=
  ⟨⟨_, rfl⟩, ⟨_, rfl⟩, ⟨_, rfl⟩, ⟨_, rfl⟩, ⟨_, rfl⟩⟩
/-- A good state that is not the reset state, and a step from it. -/
theorem test_witness_EveryStepKeepsTheInvariants :
    Inv (writing .al 9 1000) ∧ ∃ t, step ((writing .al 9 1000).withFetchWord 16 0x1A5C) = .next t :=
  ⟨by decide, _, rfl⟩
/-- Two good states that differ in registers that reset leaves unspecified. -/
theorem test_witness_UnspecifiedRegistersAreNeverObserved :
    ∃ t : State, t = { State.reset with
        now := 9, osc.due := 11, rx.acc := 5, rx.last := 7, wr.wbyte := 3, wr.esc := 2, wr.wt0 := 1, ring.buf := [(3, 9)] } ∧
      Inv State.reset ∧ Inv t ∧ AgreeWhereSpecified State.reset t := by
  refine ⟨_, rfl, by decide, by decide, ?_⟩
  constructor <;> decide
theorem test_witness_MouseDecodeReportsThePacket :
    (let s := withBytes [0x28, 0x05, 0xFD] State.reset
     s.cfg.wf = true ∧ RingInv s ∧ s.mouse.phase = .idle ∧ ringEntries s.cfg s.ring = [0x28, 0x05, 0xFD] ∧
       0x28#8 &&& s.cfg.lit.alignMask = s.cfg.alignValue ∧ ((0x28#8).getLsbD 6 || (0x28#8).getLsbD 7) = false) ∧
    (ringEntries cap4.cfg (withBytes [1, 2] cap4).ring).length < 3 ∧
    0x0C#8 &&& Params.standard.lit.alignMask ≠ Params.standard.alignValue ∧
    0x48#8 &&& Params.standard.lit.alignMask = Params.standard.alignValue ∧ ((0x48#8).getLsbD 6 || (0x48#8).getLsbD 7) = true := by decide
theorem test_witness_RxdrainPopsUntilTheRingIsEmpty :
    rxOn.ring.head = rxOn.ring.tail ∧ (withBytes [1] rxOn).ring.head ≠ (withBytes [1] rxOn).ring.tail ∧
    (let s := { withBytes [1, 2, 3] cap4 with sched := [.rxDrain, .tick] }
     s.cfg.wf = true ∧ RingInv s ∧ s.sched = .rxDrain :: [.tick]) := by decide

end Sys2Proof.Tests
end

/-! SUPPORT. The parameters along a step: every operation keeps `cfg`, so every event does, so every step does (R8, R9). -/

namespace Sys2Proof.Machine

/-! ### The operations of the agents keep the parameters -/

@[simp] theorem takeEvent_cfg (s : State) : (takeEvent s).cfg = s.cfg := by rw [takeEvent_eq]

/-- A guarded step keeps the parameters where its effect does. -/
theorem whenEnabled_cfg {g : State → Bool} {f : State → State} (hf : ∀ s, (f s).cfg = s.cfg) (s : State) :
    (whenEnabled g f s).cfg = s.cfg :=
  whenEnabled_inv (P := fun t => t.cfg = s.cfg) rfl fun _ => hf s

/-- A guarded step of the writer keeps the parameters where its effect does. -/
theorem whenWriter_cfg {ws : WState} {f : State → State} (hf : ∀ s, (f s).cfg = s.cfg) (s : State) :
    (whenWriter ws f s).cfg = s.cfg :=
  whenEnabled_cfg hf s

@[simp] theorem reservedWord_cfg (s : State) : (reservedWord s).cfg = s.cfg := rfl
@[simp] theorem rxcnt_cfg (s : State) : (rxcnt s).cfg = s.cfg := rfl
@[simp] theorem startWrite_cfg (b : Byte) (s : State) : (startWrite b s).cfg = s.cfg := rfl
@[simp] theorem devDrive_cfg (clk dat : Option Bool) (s : State) : (devDrive clk dat s).cfg = s.cfg := rfl
@[simp] theorem resetEvent_cfg (s : State) : (resetEvent s).cfg = s.cfg := rfl
@[simp] theorem wReqDone_cfg (s : State) : (wReqDone s).cfg = s.cfg := rfl
@[simp] theorem wRtsDone_cfg (s : State) : (wRtsDone s).cfg = s.cfg := rfl
@[simp] theorem finishWrite_cfg (s : State) : (finishWrite s).cfg = s.cfg := rfl

@[simp] theorem rxpop_cfg (s : State) : (rxpop s).cfg = s.cfg := by
  obtain ⟨-, h⟩ | ⟨-, h⟩ := rxpop_cases s <;> rw [h] <;> rfl

@[simp] theorem rxDrainTurn_cfg (s : State) : (rxDrainTurn s).cfg = s.cfg := by
  simp only [rxDrainTurn]
  split <;> exact rxpop_cfg s

@[simp] theorem failedPoll_cfg (s : State) : (failedPoll s).cfg = s.cfg := by
  obtain ⟨-, h⟩ | ⟨-, h⟩ := failedPoll_cases s <;> rw [h]

@[simp] theorem wPollLow_cfg (s : State) : (wPollLow s).cfg = s.cfg := by
  obtain ⟨-, h⟩ | ⟨-, h⟩ := wPollLow_cases s <;> simp [h]

@[simp] theorem wPollHigh_cfg (s : State) : (wPollHigh s).cfg = s.cfg := by
  unfold wPollHigh
  split
  · split <;> rfl
  · exact failedPoll_cfg s

@[simp] theorem wPollAckL_cfg (s : State) : (wPollAckL s).cfg = s.cfg := by
  obtain ⟨-, h⟩ | ⟨-, h⟩ := wPollAckL_cases s <;> simp [h]

@[simp] theorem wPollAckH_cfg (s : State) : (wPollAckH s).cfg = s.cfg := by
  obtain ⟨-, h⟩ | ⟨-, h⟩ := wPollAckH_cases s <;> simp [h]

@[simp] theorem tickOrUrgent_cfg (s : State) : (tickOrUrgent s).cfg = s.cfg := by
  obtain ⟨-, h⟩ | ⟨-, -, h⟩ | ⟨-, -, h⟩ := tickOrUrgent_cases s <;> simp [h]

@[simp] theorem mouseStep_cfg (s : State) : (mouseStep s).cfg = s.cfg := by
  unfold mouseStep
  split
  case h_1 =>
    dsimp only
    split <;> exact rxcnt_cfg s
  case h_2 =>
    dsimp only
    split <;> exact rxpop_cfg s
  case h_3 => exact rxpop_cfg s
  case h_4 => exact rxpop_cfg s

/-! ### The commands, the events and the step keep the parameters -/

/-- Every host command is carried out (R300), with the parameters it found. -/
theorem exec_next_cfg (i : Instr) (s : State) : ∃ t, exec i s = .next t ∧ t.cfg = s.cfg := by
  cases i with
  | nop => exact ⟨_, rfl, rfl⟩
  | irsend code =>
    simp only [exec, execIrsend]
    split <;> exact ⟨_, rfl, rfl⟩
  | irrpt => exact ⟨_, rfl, rfl⟩
  | ps2wr byte =>
    simp only [exec, execPs2wr]
    split
    · exact ⟨_, rfl, rfl⟩
    · exact ⟨_, rfl, startWrite_cfg byte s⟩
  | rxpop => exact ⟨_, rfl, rxpop_cfg s⟩
  | rxcnt => exact ⟨_, rfl, rxcnt_cfg s⟩
  | rdst => exact ⟨_, rfl, rfl⟩
  | clrf mask => exact ⟨_, rfl, rfl⟩
  | rxen en =>
    simp only [exec, execRxen]
    split
    · exact ⟨_, rfl, rfl⟩
    · split <;> exact ⟨_, rfl, rfl⟩
  | reserved9 | reservedA | reservedB | reservedC | reservedD | reservedE | reservedF =>
    exact ⟨_, rfl, reservedWord_cfg s⟩

/-- Every event is carried out (R300), with the parameters it found. -/
theorem runEvent_next_cfg (e : Event) (s : State) : ∃ t, runEvent e s = .next t ∧ t.cfg = s.cfg := by
  cases e with
  | host cw => exact exec_next_cfg (decode cw) s
  | rxDrain => exact ⟨_, rfl, rxDrainTurn_cfg s⟩
  | mouseDecode => exact ⟨_, rfl, mouseStep_cfg s⟩
  | tick => exact ⟨_, rfl, tickOrUrgent_cfg s⟩
  | devDrive clk dat => exact ⟨_, rfl, devDrive_cfg clk dat s⟩
  | rxService => exact ⟨_, rfl, whenEnabled_cfg rxService_cfg s⟩
  | wReqDone => exact ⟨_, rfl, whenEnabled_cfg wReqDone_cfg s⟩
  | wRtsDone => exact ⟨_, rfl, whenEnabled_cfg wRtsDone_cfg s⟩
  | wPollLow => exact ⟨_, rfl, whenWriter_cfg wPollLow_cfg s⟩
  | wPollHigh => exact ⟨_, rfl, whenWriter_cfg wPollHigh_cfg s⟩
  | wPollAckL => exact ⟨_, rfl, whenWriter_cfg wPollAckL_cfg s⟩
  | wPollAckH => exact ⟨_, rfl, whenWriter_cfg wPollAckH_cfg s⟩
  | irFire => exact ⟨_, rfl, whenEnabled_cfg irFire_cfg s⟩
  | oscStep => exact ⟨_, rfl, whenEnabled_cfg oscStep_cfg s⟩
  | reset => exact ⟨_, rfl, resetEvent_cfg s⟩

/-- An event that answers a next state keeps the parameters. -/
theorem runEvent_cfg {e : Event} {s t : State} (h : runEvent e s = .next t) : t.cfg = s.cfg := by
  obtain ⟨u, hu, hcfg⟩ := runEvent_next_cfg e s
  rw [h] at hu
  cases hu
  exact hcfg

/-- A step that answers a next state keeps the parameters. -/
theorem step_cfg {s t : State} (h : step s = .next t) : t.cfg = s.cfg := by
  obtain ⟨-, hrun⟩ := step_next h
  exact (runEvent_cfg hrun).trans (takeEvent_cfg s)

/-- Settles O58: the reset state's literals are `Literals.d00`, and a step is an event on the same parameters. -/
theorem theParametersAreFixed : Obligations.TheParametersAreFixed :=
  ⟨rfl, fun _ _ => step_cfg⟩

end Sys2Proof.Machine

/-! SUPPORT. The ring as a queue (R34): what a push and a pop do to the count and to the entries, and the form
they keep. -/

namespace Sys2Proof.Machine

/-- `RingInv` said of a ring, so that an operation on the ring can be said to keep it. -/
structure RingWf (p : Params) (r : Ring) : Prop where
  head : r.head &&& ringMask p = r.head
  tail : r.tail &&& ringMask p = r.tail
  canonical : Memory.wf r.buf = true
  below : ∀ c ∈ r.buf, c.1 < ringCap p

theorem ringInv_iff (s : State) : RingInv s ↔ RingWf s.cfg s.ring :=
  ⟨fun ⟨hh, ht, hc, hb⟩ => ⟨hh, ht, hc, hb⟩, fun ⟨hh, ht, hc, hb⟩ => ⟨hh, ht, hc, hb⟩⟩

section
variable {p : Params} {r : Ring}

theorem RingWf.push (hp : p.wf = true) (h : RingWf p r) (v : Byte) : RingWf p (ringPush p v r) where
  head := h.head
  tail := ringNext_masked p r.tail
  canonical := memWrite_wf _ v h.canonical
  below := memWrite_below v (ringSlot_lt hp r.tail) h.below

theorem RingWf.drop (h : RingWf p r) : RingWf p (ringDrop p r) where
  head := ringNext_masked p r.head
  tail := h.tail
  canonical := h.canonical
  below := h.below

/-- The ring that `RESET` leaves: empty, with any slots (R54, R342). -/
theorem ringWf_reset (p : Params) (slots : Nat → Byte) :
    RingWf p { buf := memOfFn slots (ringCap p), head := 0, tail := 0 } where
  head := BitVec.zero_and
  tail := BitVec.zero_and
  canonical := memOfFn_wf slots (ringCap p)
  below := memOfFn_below slots (ringCap p)

/-! ### The count -/

section
variable (hp : p.wf = true)
include hp

theorem ringCount_lt (r : Ring) : (ringCount p r).toNat < ringCap p := by
  have := ringCap_bounds hp
  rw [ringCount_toNat hp]
  exact Nat.mod_lt _ (by omega)

/-- `COUNT` steps ahead of `HEAD` stands `TAIL` (R34). -/
theorem head_add_ringCount (h : RingWf p r) :
    (r.head.toNat + (ringCount p r).toNat) % ringCap p = r.tail.toNat := by
  have hhead := lt_ringCap_of_masked hp h.head
  have hcap := ringCap_bounds hp
  obtain ⟨k, hk⟩ := ringCap_dvd hp
  calc (r.head.toNat + (ringCount p r).toNat) % ringCap p
      = (r.head.toNat + (65536 - r.head.toNat + r.tail.toNat)) % ringCap p := by
        rw [ringCount_toNat hp, Nat.add_mod_mod]
    _ = (ringCap p * k + r.tail.toNat) % ringCap p := by congr 1; omega
    _ = r.tail.toNat := by
        rw [Nat.mul_add_mod]
        exact Nat.mod_eq_of_lt (lt_ringCap_of_masked hp h.tail)

/-- Only the count leads from `HEAD` to `TAIL`. -/
theorem ringCount_unique (h : RingWf p r) {n : Nat} (hn : n < ringCap p)
    (hstep : (r.head.toNat + n) % ringCap p = r.tail.toNat) : (ringCount p r).toNat = n :=
  have hmod : r.head.toNat + (ringCount p r).toNat ≡ r.head.toNat + n [MOD ringCap p] :=
    (head_add_ringCount hp h).trans hstep.symm
  (Nat.ModEq.add_left_cancel' _ hmod).eq_of_lt_of_lt (ringCount_lt hp r) hn

/-- The ring is empty where nothing is counted. -/
theorem head_eq_tail_iff (h : RingWf p r) : r.head = r.tail ↔ (ringCount p r).toNat = 0 := by
  have hcap := ringCap_bounds hp
  have hmod := Nat.mod_eq_of_lt (lt_ringCap_of_masked hp h.head)
  constructor
  · intro heq
    exact ringCount_unique hp h (by omega) (by rw [Nat.add_zero, hmod, heq])
  · intro hzero
    have := head_add_ringCount hp h
    rw [hzero, Nat.add_zero, hmod] at this
    exact BitVec.eq_of_toNat_eq this

/-- The ring is full where all slots but one are counted (R34). -/
theorem ringFull_iff (h : RingWf p r) : ringFull p r = true ↔ (ringCount p r).toNat = ringCap p - 1 := by
  have hcap := ringCap_bounds hp
  have hhead := lt_ringCap_of_masked hp h.head
  have hround : (r.head.toNat + ringCap p) % ringCap p = r.head.toNat := by
    rw [Nat.add_mod_right, Nat.mod_eq_of_lt hhead]
  have hnext : (ringNext p r.tail).toNat = (r.head.toNat + ((ringCount p r).toNat + 1)) % ringCap p := by
    rw [ringNext_toNat hp, ← head_add_ringCount hp h, Nat.mod_add_mod, Nat.add_assoc]
  rw [ringFull, decide_eq_true_eq, BitVec.toNat_inj.symm, hnext]
  constructor
  · intro hfull
    have hmod : r.head.toNat + ((ringCount p r).toNat + 1) ≡ r.head.toNat + 0 [MOD ringCap p] :=
      hfull.trans (Nat.mod_eq_of_lt hhead).symm
    have hdvd := (Nat.modEq_zero_iff_dvd).1 (Nat.ModEq.add_left_cancel' _ hmod)
    have := Nat.le_of_dvd (by omega) hdvd
    have := ringCount_lt hp r
    omega
  · intro hcount
    rw [hcount, Nat.sub_add_cancel (by omega), hround]

theorem ringCount_push (h : RingWf p r) (hfull : ringFull p r = false) (v : Byte) :
    (ringCount p (ringPush p v r)).toNat = (ringCount p r).toNat + 1 := by
  have hlt := ringCount_lt hp r
  have hne : (ringCount p r).toNat ≠ ringCap p - 1 := fun hc => by
    simp [(ringFull_iff hp h).2 hc] at hfull
  refine ringCount_unique hp (h.push hp v) (by omega) ?_
  rw [ringPush_head, ringPush_tail, ringNext_toNat hp, ← head_add_ringCount hp h, Nat.mod_add_mod, Nat.add_assoc]

theorem ringCount_drop (h : RingWf p r) (hne : r.head ≠ r.tail) :
    (ringCount p (ringDrop p r)).toNat + 1 = (ringCount p r).toNat := by
  have hpos : (ringCount p r).toNat ≠ 0 := fun hc => hne ((head_eq_tail_iff hp h).2 hc)
  have hlt := ringCount_lt hp r
  have : (ringCount p (ringDrop p r)).toNat = (ringCount p r).toNat - 1 := by
    refine ringCount_unique hp h.drop (by omega) ?_
    rw [ringDrop_head, ringDrop_tail, ringNext_toNat hp, ← head_add_ringCount hp h, Nat.mod_add_mod]
    congr 1
    omega
  omega

/-! ### The entries -/

theorem ringSlot_add (i : BitVec 16) (n : Nat) :
    ringSlot p (i + BitVec.ofNat 16 n) = (i.toNat + n) % ringCap p := by
  rw [ringSlot_eq_mod hp, BitVec.toNat_add, BitVec.toNat_ofNat, Nat.mod_mod_of_dvd _ (ringCap_dvd hp), Nat.add_mod,
    Nat.mod_mod_of_dvd _ (ringCap_dvd hp), ← Nat.add_mod]

/-- The entry `i` places behind the oldest stands `i` slots after `HEAD`. -/
theorem ringEntries_eq (r : Ring) : ringEntries p r =
    (List.range (ringCount p r).toNat).map fun i => memRead r.buf ((r.head.toNat + i) % ringCap p) := by
  simp only [ringEntries, ringSlot_add hp]

omit hp in
theorem ringEntries_length (p : Params) (r : Ring) : (ringEntries p r).length = (ringCount p r).toNat := by
  simp [ringEntries]

/-- A ring holds at most `CAP - 1` entries (R34). -/
theorem ringEntries_length_le (r : Ring) : (ringEntries p r).length ≤ ringCap p - 1 := by
  have := ringCount_lt hp r
  rw [ringEntries_length]
  omega

/-- A push makes the byte the newest entry (R156). -/
theorem ringEntries_push (h : RingWf p r) (hfull : ringFull p r = false) (v : Byte) :
    ringEntries p (ringPush p v r) = ringEntries p r ++ [v] := by
  have hslot : ringSlot p r.tail = (r.head.toNat + (ringCount p r).toNat) % ringCap p := by
    rw [head_add_ringCount hp h, ringSlot, h.tail]
  have hold : ∀ i ∈ List.range (ringCount p r).toNat,
      memRead (ringPush p v r).buf ((r.head.toNat + i) % ringCap p) =
        memRead r.buf ((r.head.toNat + i) % ringCap p) := by
    intro i hi
    have hi := List.mem_range.1 hi
    have hlt := ringCount_lt hp r
    refine memRead_ringPush_other v fun heq => ?_
    rw [hslot] at heq
    exact absurd ((Nat.ModEq.add_left_cancel' _ heq).eq_of_lt_of_lt (by omega) hlt) (by omega)
  rw [ringEntries_eq hp, ringEntries_eq hp, ringCount_push hp h hfull, List.range_succ, List.map_append,
    ringPush_head, List.map_congr_left hold, List.map_singleton, ← hslot, memRead_ringPush_same v h.canonical]

/-- The oldest entry of a ring that is not empty is the byte at `HEAD`; a pop leaves the others (R160). -/
theorem ringEntries_eq_front_cons (h : RingWf p r) (hne : r.head ≠ r.tail) :
    ringEntries p r = ringFront p r :: ringEntries p (ringDrop p r) := by
  rw [ringEntries_eq hp, ringEntries_eq hp, ← ringCount_drop hp h hne, List.range_succ_eq_map, List.map_cons,
    List.map_map, ringFront, ringSlot_eq_mod hp, Nat.add_zero, ringDrop_head, ringDrop_buf, ringNext_toNat hp]
  congr 1
  refine List.map_congr_left fun i _ => ?_
  rw [Function.comp_apply, Nat.mod_add_mod, Nat.succ_eq_add_one, Nat.add_assoc, Nat.add_comm 1 i]

theorem ringEntries_eq_nil_iff (h : RingWf p r) : ringEntries p r = [] ↔ r.head = r.tail := by
  rw [head_eq_tail_iff hp h, ← ringEntries_length, List.length_eq_zero_iff]

end

end

end Sys2Proof.Machine

/-! SUPPORT. Each of the five invariants under the operations that write what it speaks of. -/

namespace Sys2Proof.Machine

/-! ### The receive engine -/

theorem rxFrameLen_pos {p : Params} (hp : p.wf = true) : 0 < p.lit.rxFrameLen := by
  simp only [Params.wf, Literals.wf, decide_eq_true_eq] at hp
  bv_omega

/-- The count before a sample is below the frame length (R27, R153). -/
theorem countBefore_lt {s : State} (hp : s.cfg.wf = true) (h : RxInv s) : countBefore s < s.cfg.lit.rxFrameLen := by
  unfold countBefore
  split
  · exact rxFrameLen_pos hp
  · exact h

theorem rxService_rxInv {s : State} (hp : s.cfg.wf = true) (h : RxInv s) : RxInv (rxService s) := by
  have hlt := countBefore_lt hp h
  change (rxService s).rx.bitcnt < s.cfg.lit.rxFrameLen
  rw [rxService_bitcnt]
  split
  · bv_omega
  · bv_omega

theorem rxService_ringWf {s : State} (hp : s.cfg.wf = true) (h : RingWf s.cfg s.ring) :
    RingWf s.cfg (rxService s).ring := by
  obtain heq | ⟨-, heq⟩ := rxService_ring_cases s <;> rw [heq]
  · exact h
  · exact h.push hp _

/-! ### The writer's handshake -/

section
variable {s : State}

/-! What `WriterInv` asks in each state of the writer (R182, R188). -/

theorem writerInv_idle_iff (hws : s.wr.ws = .idle) : WriterInv s ↔ s.lines.hclk = true := by
  simp [WriterInv, hws, waiting]

theorem writerInv_req_iff (hws : s.wr.ws = .req) :
    WriterInv s ↔ s.edge.rxie = false ∧ s.lines.hclk = false ∧ s.wr.wi = 0 := by
  simp [WriterInv, hws, waiting]

theorem writerInv_rts_iff (hws : s.wr.ws = .rts) :
    WriterInv s ↔ s.edge.rxie = false ∧ s.lines.hclk = false ∧ s.wr.wi = 0 ∧ s.lines.hdat = false := by
  simp [WriterInv, hws, waiting]

theorem writerInv_wl_iff (hws : s.wr.ws = .wl) :
    WriterInv s ↔ s.edge.rxie = false ∧ s.lines.hclk = true ∧ s.lines.hdat = levelBefore s.wr.wbyte s.wr.wi ∧
      1 ≤ s.wr.esc ∧ s.wr.esc ≤ s.cfg.escBudget := by
  simp [WriterInv, hws, waiting]

theorem writerInv_wh_iff (hws : s.wr.ws = .wh) :
    WriterInv s ↔ s.edge.rxie = false ∧ s.lines.hclk = true ∧ s.lines.hdat = slotLevel s.wr.wbyte s.wr.wi ∧
      1 ≤ s.wr.esc ∧ s.wr.esc ≤ s.cfg.escBudget := by
  simp [WriterInv, hws, waiting]

theorem writerInv_ack_iff (hws : s.wr.ws = .al ∨ s.wr.ws = .ah) :
    WriterInv s ↔ s.edge.rxie = false ∧ s.lines.hclk = true ∧ (s.wr.wi = 9 ∧ s.lines.hdat = true) ∧
      1 ≤ s.wr.esc ∧ s.wr.esc ≤ s.cfg.escBudget := by
  rcases hws with hws | hws <;> simp [WriterInv, hws, waiting]

/-- In a wait the clock driver is released (R182). -/
theorem WriterInv.hclk_of_waiting (h : WriterInv s) (hws : waiting s.wr.ws = true) : s.lines.hclk = true := by
  obtain ⟨-, hclk, -⟩ := h
  have hhold : ¬ (s.wr.ws = .req ∨ s.wr.ws = .rts) := by
    rintro (hreq | hrts)
    · simp [hreq, waiting] at hws
    · simp [hrts, waiting] at hws
  simpa [hhold] using hclk

/-! What the writer's steps leave of the handshake. -/

theorem startWrite_writerInv (byte : Byte) (s : State) : WriterInv (startWrite byte s) :=
  (writerInv_req_iff rfl).2 ⟨rfl, rfl, rfl⟩

theorem rearm_writerInv (h : WriterInv s) (hws : s.wr.ws = .idle) : WriterInv (rearm s) :=
  (writerInv_idle_iff (s := rearm s) hws).2 ((writerInv_idle_iff hws).1 h)

/-- Masking the receive interrupt is always admitted. -/
theorem maskReceive_writerInv (h : WriterInv s) : WriterInv { s with edge.rxie := false } := by
  obtain ⟨-, hrest⟩ := h
  exact ⟨fun _ => rfl, hrest⟩

theorem wReqDone_writerInv (h : WriterInv s) (hws : s.wr.ws = .req) : WriterInv (wReqDone s) := by
  obtain ⟨hmask, hclk, hwi⟩ := (writerInv_req_iff hws).1 h
  exact (writerInv_rts_iff rfl).2 ⟨hmask, hclk, hwi, rfl⟩

theorem wRtsDone_writerInv (h : WriterInv s) (hws : s.wr.ws = .rts) (hbudget : 1 ≤ s.cfg.escBudget) :
    WriterInv (wRtsDone s) := by
  obtain ⟨hmask, -, -, hdat⟩ := (writerInv_rts_iff hws).1 h
  exact (writerInv_wl_iff rfl).2 ⟨hmask, rfl, hdat, hbudget, Nat.le_refl _⟩

theorem failedPoll_writerInv (h : WriterInv s) (hws : waiting s.wr.ws = true) : WriterInv (failedPoll s) := by
  obtain ⟨hleft, heq⟩ | ⟨-, heq⟩ := failedPoll_cases s <;> rw [heq]
  · obtain ⟨hmask, hclk, hwi, hrts, hwl, hwh, hack, hesc⟩ := h
    obtain ⟨-, hle⟩ := hesc hws
    have hspent : 1 ≤ s.wr.esc - 1 ∧ s.wr.esc - 1 ≤ s.cfg.escBudget := by omega
    exact ⟨hmask, hclk, hwi, hrts, hwl, hwh, hack, fun _ => hspent⟩
  · exact (writerInv_idle_iff rfl).2 (h.hclk_of_waiting hws)

theorem wPollLow_writerInv (h : WriterInv s) (hws : s.wr.ws = .wl) (hbudget : 1 ≤ s.cfg.escBudget) :
    WriterInv (wPollLow s) := by
  obtain ⟨-, heq⟩ | ⟨-, heq⟩ := wPollLow_cases s <;> rw [heq]
  · exact failedPoll_writerInv h (by rw [hws]; rfl)
  · obtain ⟨hmask, hclk, -⟩ := (writerInv_wl_iff hws).1 h
    exact (writerInv_wh_iff rfl).2 ⟨hmask, hclk, rfl, hbudget, Nat.le_refl _⟩

/-- W_POLL_HIGH: the next slot, after the stop slot the acknowledgement, or a failed poll (R192). -/
theorem wPollHigh_cases (s : State) :
    (clkLine s.lines = true ∧ ∃ i : Fin 10, i.val = s.wr.wi.val + 1 ∧
        wPollHigh s = enterWait .wl { s with wr.wi := i }) ∨
      (clkLine s.lines = true ∧ s.wr.wi = 9 ∧ wPollHigh s = enterWait .al s) ∨
      (clkLine s.lines = false ∧ wPollHigh s = failedPoll s) := by
  unfold wPollHigh
  split
  case isTrue hhigh =>
    split
    · exact .inl ⟨hhigh, _, rfl, rfl⟩
    · exact .inr (.inl ⟨hhigh, by omega, rfl⟩)
  case isFalse hlow => exact .inr (.inr ⟨Bool.not_eq_true _ ▸ hlow, rfl⟩)

/-- The level placed in a slot is the level that stands before the next one. -/
theorem levelBefore_of_val_eq_succ (b : Byte) {i j : Fin 10} (h : j.val = i.val + 1) :
    levelBefore b j = slotLevel b i := by
  have hj : j - 1 = i := by omega
  simp [levelBefore, h, hj]

theorem wPollHigh_writerInv (h : WriterInv s) (hws : s.wr.ws = .wh) (hbudget : 1 ≤ s.cfg.escBudget) :
    WriterInv (wPollHigh s) := by
  obtain ⟨hmask, hclk, hdat, -⟩ := (writerInv_wh_iff hws).1 h
  obtain ⟨-, i, hi, heq⟩ | ⟨-, hi, heq⟩ | ⟨-, heq⟩ := wPollHigh_cases s <;> rw [heq]
  · exact (writerInv_wl_iff rfl).2
      ⟨hmask, hclk, hdat.trans (levelBefore_of_val_eq_succ _ hi).symm, hbudget, Nat.le_refl _⟩
  · have hstop : (enterWait .al s).lines.hdat = true := by
      rw [enterWait_lines, hdat, hi]
      rfl
    exact (writerInv_ack_iff (.inl rfl)).2 ⟨hmask, hclk, ⟨hi, hstop⟩, hbudget, Nat.le_refl _⟩
  · exact failedPoll_writerInv h (by rw [hws]; rfl)

theorem wPollAckL_writerInv (h : WriterInv s) (hws : s.wr.ws = .al) (hbudget : 1 ≤ s.cfg.escBudget) :
    WriterInv (wPollAckL s) := by
  obtain ⟨-, heq⟩ | ⟨-, heq⟩ := wPollAckL_cases s <;> rw [heq]
  · exact failedPoll_writerInv h (by rw [hws]; rfl)
  · obtain ⟨hmask, hclk, hstop, -⟩ := (writerInv_ack_iff (.inl hws)).1 h
    exact (writerInv_ack_iff (.inr rfl)).2 ⟨hmask, hclk, hstop, hbudget, Nat.le_refl _⟩

theorem wPollAckH_writerInv (h : WriterInv s) (hws : s.wr.ws = .ah) : WriterInv (wPollAckH s) := by
  have hwait : waiting s.wr.ws = true := by rw [hws]; rfl
  obtain ⟨-, heq⟩ | ⟨-, heq⟩ := wPollAckH_cases s <;> rw [heq]
  · exact (writerInv_idle_iff rfl).2 (h.hclk_of_waiting hwait)
  · exact failedPoll_writerInv h hwait

end

/-! ### The infrared engine -/

/-- Bits 15:12 of `SR` in phase `n`: 0 before the complement and 1 after it (R247). -/
structure SrWf (p : Params) (n : Nat) (sr : Word) : Prop where
  before : n ≤ p.lit.complAt → sr.extractLsb' 12 4 = 0x0
  after : p.lit.complAt < n → n ≤ Config.nSub → sr.extractLsb' 12 4 = 0xF

/-- `IrInv` said of the engine's registers. -/
structure IrWf (p : Params) (e : IrEngine) : Prop where
  phase : e.ph ≤ phRepeat
  running : e.ten = true ↔ e.ph ≠ phIdle
  gate : e.gate = pulsePhase e.ph
  deadline : e.ten = true → e.tcnt ≤ e.ocr ∧ e.ocr ∈ durations p.lit
  sr : SrWf p e.ph.toNat e.sr

theorem irInv_iff (s : State) : IrInv s ↔ IrWf s.cfg s.ir :=
  ⟨fun ⟨hph, hten, hgate, hdue, hb, ha⟩ => ⟨hph, hten, hgate, hdue, hb, ha⟩,
    fun ⟨hph, hten, hgate, hdue, hb, ha⟩ => ⟨hph, hten, hgate, hdue, hb, ha⟩⟩

/-- Among the sub-phases the even ones are pulses (R109). -/
theorem pulsePhase_succ : ∀ ph : BitVec 6, ph.toNat ≤ Config.nSub →
    ph + 1 ≤ phRepeat ∧ ph + 1 ≠ phIdle ∧ (ph + 1).toNat = ph.toNat + 1 ∧
      pulsePhase (ph + 1) = decide (ph.toNat % 2 = 1) := by
  decide

section
variable {p : Params} (hp : p.wf = true)
include hp

/-- The complement falls on an odd sub-phase (R246, log entry 19). -/
theorem complAt_odd_le : p.lit.complAt % 2 = 1 ∧ p.lit.complAt ≤ 47 := by
  simp only [Params.wf, Literals.wf, decide_eq_true_eq] at hp
  omega

/-- Behind the last sub-phase nothing is asked of `SR`. -/
theorem srWf_of_nSub_lt {n : Nat} (hn : Config.nSub < n) (sr : Word) : SrWf p n sr where
  before h := by
    obtain ⟨-, hle⟩ := complAt_odd_le hp
    simp only [Config.nSub] at hn
    omega
  after _ h := absurd h (by omega)

omit hp in
/-- Complementing the register at `COMPL_AT`, and only there, keeps bits 15:12 right (R247). -/
theorem SrWf.next {n : Nat} {sr : Word} (h : SrWf p n sr) (hn : n ≤ Config.nSub) :
    SrWf p (n + 1) (if n = p.lit.complAt then ~~~sr else sr) where
  before hle := by
    rw [if_neg (by omega)]
    exact h.before (by omega)
  after hlt _ := by
    split
    · have hzero := h.before (by omega)
      have hnot : (~~~sr).extractLsb' 12 4 = ~~~(sr.extractLsb' 12 4) := by
        ext i hi
        simp [show 12 + i < 16 by omega]
      rw [hnot, hzero]
      rfl
    · exact h.after (by omega) hn

/-- An idle engine is consistent whatever its counter, deadline and register hold (R249). -/
theorem irWf_idle (sr tcnt ocr : Word) : IrWf p ⟨phIdle, sr, tcnt, ocr, false, false⟩ where
  phase := (by decide : phIdle ≤ phRepeat)
  running := ⟨nofun, fun h => absurd rfl h⟩
  gate := rfl
  deadline := nofun
  sr := srWf_of_nSub_lt hp (by decide : Config.nSub < phIdle.toNat) sr

omit hp in
/-- An interval just begun: the counter at 0, a programmed deadline, and the level of its phase on the gate. -/
theorem irWf_interval {ph : BitVec 6} {sr ocr : Word} (hle : ph ≤ phRepeat) (hne : ph ≠ phIdle)
    (hocr : ocr ∈ durations p.lit) (hsr : SrWf p ph.toNat sr) : IrWf p ⟨ph, sr, 0, ocr, true, pulsePhase ph⟩ where
  phase := hle
  running := ⟨fun _ => hne, fun _ => rfl⟩
  gate := rfl
  deadline := fun _ => ⟨Nat.zero_le _, hocr⟩
  sr := hsr

omit hp in
/-- IRSEND: the code has twelve bits, so that bits 15:12 of `SR` are 0 (R242, R247). -/
theorem irWf_irsend (code : BitVec 12) (e : IrEngine) :
    IrWf p (armIr p.lit phStart { e with sr := code.zeroExtend 16 }) :=
  irWf_interval (ph := phStart) (by decide) (by decide) (by simp [durations])
    { before := fun _ => by ext; simp
      after := fun h => absurd h (by simp [phStart]) }

/-- IRRPT: `SR` is kept, and a repeat frame does not ask for it (R243). -/
theorem irWf_irrpt (e : IrEngine) : IrWf p (armIr p.lit phRepeat e) :=
  irWf_interval (ph := phRepeat) (by decide) (by decide) (by simp [durations]) (srWf_of_nSub_lt hp (by decide) _)

/-- What a firing can do: the next sub-phase with its level and a programmed duration, the complement at `COMPL_AT`;
the end pulse; the silence of a repeat frame; or the stop (R246). Which duration a sub-phase has is left open. -/
theorem fireIr_cases (e : IrEngine) :
    (e.ph.toNat ≤ Config.nSub ∧ ∃ ocr ∈ durations p.lit, fireIr p e = { e with
        tcnt := 0, gate := decide (e.ph.toNat % 2 = 1), ocr := ocr, ph := e.ph + 1,
        sr := if e.ph.toNat = p.lit.complAt then ~~~e.sr else e.sr }) ∨
      fireIr p e = beginInterval true p.lit.tPulse phStop e ∨
      fireIr p e = beginInterval false p.lit.tGapRpt phEndPulse e ∨
      fireIr p e = stopIr e := by
  obtain ⟨hodd, -⟩ := complAt_odd_le hp
  unfold fireIr
  dsimp only
  split
  case isTrue hzero =>
    have hph : e.ph = 0 := BitVec.eq_of_toNat_eq hzero
    refine .inl ⟨by omega, p.lit.tGapCode, by simp [durations], ?_⟩
    rw [if_neg (by omega), hzero, hph]
    rfl
  case isFalse =>
    split
    case isTrue hsub =>
      refine .inl ⟨hsub, ?_⟩
      split
      case isTrue hpulse =>
        refine ⟨p.lit.tPulse, by simp [durations], ?_⟩
        split <;> simp [beginInterval, hpulse]
      case isFalse hsilence =>
        refine ⟨if txbit p.irMsbFirst e.sr e.ph.toNat then p.lit.tOne else p.lit.tZero, ?_, ?_⟩
        · split <;> simp [durations]
        · rw [if_neg (by omega : e.ph.toNat ≠ p.lit.complAt), decide_eq_false hsilence]
          rfl
    case isFalse =>
      refine .inr ?_
      split
      · exact .inl rfl
      · split
        · exact .inr (.inr rfl)
        · split
          · exact .inr (.inl rfl)
          · exact .inr (.inr rfl)

/-- A firing keeps the registers consistent while the timer runs (R245 to R249). -/
theorem IrWf.fire {e : IrEngine} (h : IrWf p e) (hten : e.ten = true) : IrWf p (fireIr p e) := by
  obtain ⟨hsub, ocr, hocr, heq⟩ | heq | heq | heq := fireIr_cases hp e <;> rw [heq]
  · obtain ⟨hle, hne, hsucc, hpulse⟩ := pulsePhase_succ e.ph hsub
    rw [← hpulse, hten]
    exact irWf_interval hle hne hocr (hsucc ▸ h.sr.next hsub)
  · rw [beginInterval, hten]
    exact irWf_interval (ph := phStop) (by decide) (by decide) (by simp [durations]) (srWf_of_nSub_lt hp (by decide) _)
  · rw [beginInterval, hten]
    exact irWf_interval (ph := phEndPulse) (by decide) (by decide) (by simp [durations])
      (srWf_of_nSub_lt hp (by decide) _)
  · exact irWf_idle hp _ _ _

omit hp in
/-- A microsecond that ends before the deadline does not carry the counter past it (R361). -/
theorem IrWf.tick {e : IrEngine} (h : IrWf p e) (hdue : ¬ (e.ten = true ∧ e.tcnt = e.ocr)) :
    IrWf p { e with tcnt := if e.ten then e.tcnt + 1 else e.tcnt } where
  phase := h.phase
  running := h.running
  gate := h.gate
  deadline hten := by
    obtain ⟨hle, hocr⟩ := h.deadline hten
    have hne : e.tcnt ≠ e.ocr := fun heq => hdue ⟨hten, heq⟩
    refine ⟨?_, hocr⟩
    simp only [show e.ten = true from hten, if_true]
    bv_omega
  sr := h.sr

end

/-! ### The oscillator -/

/-- `OscInv` said of the time and the oscillator. -/
structure OscWf (p : Params) (now : Micros) (o : Oscillator) : Prop where
  frac : o.frac < oscUnit p
  near : (o.due - now).toNat * oscUnit p + o.frac < oscHold p o.level + oscUnit p

theorem oscInv_iff (s : State) : OscInv s ↔ OscWf s.cfg s.now s.osc :=
  ⟨fun ⟨hfrac, hnear⟩ => ⟨hfrac, hnear⟩, fun ⟨hfrac, hnear⟩ => ⟨hfrac, hnear⟩⟩

section
variable {p : Params} (hp : p.wf = true)
include hp

theorem oscUnit_pos : 0 < oscUnit p := by
  simp only [Params.wf, decide_eq_true_eq] at hp
  exact Nat.mul_pos (by omega) (by omega)

/-- A level is held for at least `10^6` parts of a microsecond, and for at most one second (R8, R252). -/
theorem oscHold_bounds (level : Bool) :
    1000000 ≤ oscHold p level ∧ oscHold p level ≤ 1000000 * oscUnit p := by
  simp only [Params.wf, decide_eq_true_eq] at hp
  have hunit : p.dutyDen ≤ oscUnit p := Nat.le_mul_of_pos_left _ (by omega)
  cases level <;> simp only [oscHold, Bool.false_eq_true, if_true, if_false] <;> omega

omit hp in
/-- The next toggle `left` parts ahead of `now` (log entry 14). -/
theorem oscWf_ahead {left : Nat} {level : Bool} (now : Micros) (hunit : 0 < oscUnit p)
    (hleft : left < oscHold p level + oscUnit p) :
    OscWf p now ⟨level, now + BitVec.ofNat 32 (left / oscUnit p), left % oscUnit p⟩ where
  frac := Nat.mod_lt _ hunit
  near := by
    have hle : left / oscUnit p % 2 ^ 32 * oscUnit p ≤ left / oscUnit p * oscUnit p :=
      Nat.mul_le_mul_right _ (Nat.mod_le _ _)
    have hsplit := Nat.div_add_mod' left (oscUnit p)
    have hdist : (now + BitVec.ofNat 32 (left / oscUnit p) - now).toNat = left / oscUnit p % 2 ^ 32 := by
      rw [BitVec.add_comm, BitVec.add_sub_cancel, BitVec.toNat_ofNat]
    dsimp only
    rw [hdist]
    omega

theorem oscAt_wf (now : Micros) (level : Bool) (phase : Nat) : OscWf p now (oscAt p now level phase) := by
  have hhold := (oscHold_bounds hp level).1
  have hlt : phase % oscHold p level < oscHold p level := Nat.mod_lt _ (by omega)
  exact oscWf_ahead now (oscUnit_pos hp) (by omega)

/-- A toggle at its instant sets the next one within the hold time of the new level (R252). -/
theorem OscWf.toggle {now : Micros} {o : Oscillator} (h : OscWf p now o) (hdue : now = o.due) :
    OscWf p now (oscToggle p o) := by
  subst hdue
  have := h.frac
  exact oscWf_ahead o.due (oscUnit_pos hp) (by omega)

/-- A toggle that leaves the next one in the same microsecond moves it on by the hold time, at least `10^6` parts. -/
theorem oscToggle_frac_of_due_eq {o : Oscillator} (hfrac : o.frac < oscUnit p) (hsame : (oscToggle p o).due = o.due) :
    o.frac + 1000000 ≤ (oscToggle p o).frac := by
  have hunit := oscUnit_pos hp
  obtain ⟨hlow, hhigh⟩ := oscHold_bounds hp (!o.level)
  have hdiv : (o.frac + oscHold p (!o.level)) / oscUnit p < 2 ^ 32 := by
    rw [Nat.div_lt_iff_lt_mul hunit]
    omega
  have hzero : BitVec.ofNat 32 ((o.frac + oscHold p (!o.level)) / oscUnit p) = 0 := by
    simpa [oscToggle] using hsame
  have hnat := congrArg BitVec.toNat hzero
  rw [BitVec.toNat_ofNat, Nat.mod_eq_of_lt hdiv] at hnat
  have hlt : o.frac + oscHold p (!o.level) < oscUnit p := by
    rcases Nat.div_eq_zero_iff.1 hnat with h | h <;> omega
  simp only [oscToggle, Nat.mod_eq_of_lt hlt]
  omega

omit hp in
/-- A microsecond that ends with no toggle due is one less to the next toggle. -/
theorem OscWf.tick {now : Micros} {o : Oscillator} (h : OscWf p now o) (hdue : now ≠ o.due) :
    OscWf p (now + 1) o where
  frac := h.frac
  near := by
    have hnear := h.near
    have hdist : (o.due - (now + 1)).toNat ≤ (o.due - now).toNat := by bv_omega
    have := Nat.mul_le_mul_right (oscUnit p) hdist
    omega

end

/-- Settling keeps the phase good, and where it may toggle as often as a microsecond allows it leaves no toggle due. -/
theorem oscSettle_wf (n : Nat) {s : State} (hp : s.cfg.wf = true) (h : OscWf s.cfg s.now s.osc)
    (hn : oscUnit s.cfg ≤ s.osc.frac + 1000000 * n) :
    OscWf s.cfg s.now (oscSettle n s).osc ∧ s.now ≠ (oscSettle n s).osc.due := by
  induction n generalizing s with
  | zero => exact absurd h.frac (by omega)
  | succ n ih =>
    have htoggle := h.toggle hp
    by_cases hdue : s.now = s.osc.due
    · have hstep : oscSettle (n + 1) s = oscSettle n (oscStep s) := by simp [oscSettle, oscStepEnabled, hdue]
      rw [hstep]
      by_cases hagain : s.now = (oscStep s).osc.due
      · have hfrac := oscToggle_frac_of_due_eq hp h.frac (hagain.symm.trans hdue)
        exact ih (s := oscStep s) hp (htoggle hdue) (by rw [oscStep_cfg, oscStep_osc]; omega)
      · rw [oscSettle_of_ne n hagain]
        exact ⟨htoggle hdue, hagain⟩
    · rw [oscSettle_of_ne _ hdue]
      exact ⟨h, hdue⟩

/-- `oscTogglesAtOnce` toggles are as many as a microsecond allows. -/
theorem oscUnit_le_togglesAtOnce (p : Params) : oscUnit p ≤ 1000000 * oscTogglesAtOnce p := by
  rw [oscTogglesAtOnce]
  omega

end Sys2Proof.Machine

/-! SUPPORT. A good state stays good: every operation, then every command, every event and every step. -/

namespace Sys2Proof.Machine

/-! ### What a good state gives, and the change of one component -/

section
variable {s : State}

theorem Inv.wf (h : Inv s) : s.cfg.wf = true := h.1

theorem Inv.budget (h : Inv s) : 1 ≤ s.cfg.escBudget := by
  have hp := h.wf
  simp only [Params.wf, decide_eq_true_eq] at hp
  omega

theorem Inv.ringWf (h : Inv s) : RingWf s.cfg s.ring := by
  obtain ⟨-, hring, -⟩ := h
  exact (ringInv_iff s).1 hring

theorem Inv.writerInv (h : Inv s) : WriterInv s := by
  obtain ⟨-, -, -, hwriter, -⟩ := h
  exact hwriter

theorem Inv.irWf (h : Inv s) : IrWf s.cfg s.ir := by
  obtain ⟨-, -, -, -, hir, -⟩ := h
  exact (irInv_iff s).1 hir

theorem Inv.oscWf (h : Inv s) : OscWf s.cfg s.now s.osc := by
  obtain ⟨-, -, -, -, -, hosc⟩ := h
  exact (oscInv_iff s).1 hosc

/-! A step that changes one component only keeps a good state where it keeps that component. -/

theorem Inv.withRing (h : Inv s) {r : Ring} (hr : RingWf s.cfg r) : Inv { s with ring := r } := by
  obtain ⟨hp, -, hrest⟩ := h
  exact ⟨hp, (ringInv_iff { s with ring := r }).2 hr, hrest⟩

theorem Inv.withIr (h : Inv s) {e : IrEngine} (he : IrWf s.cfg e) : Inv { s with ir := e } := by
  obtain ⟨hp, hring, hrx, hwriter, -, hosc⟩ := h
  exact ⟨hp, hring, hrx, hwriter, (irInv_iff { s with ir := e }).2 he, hosc⟩

theorem Inv.withOsc (h : Inv s) {o : Oscillator} (ho : OscWf s.cfg s.now o) : Inv { s with osc := o } := by
  obtain ⟨hp, hring, hrx, hwriter, hir, -⟩ := h
  exact ⟨hp, hring, hrx, hwriter, hir, (oscInv_iff { s with osc := o }).2 ho⟩

end

/-! ### Operations that touch no register of an invariant -/

theorem takeEvent_inv {s : State} (h : Inv s) : Inv (takeEvent s) := by
  rw [takeEvent_eq]
  exact h

theorem respond_inv (v : Word) {s : State} (h : Inv s) : Inv (respond v s) := h

theorem raiseFlag_inv (f : Flag) {s : State} (h : Inv s) : Inv (raiseFlag f s) := by
  cases f <;> exact h

theorem holdTick_inv {s : State} (h : Inv s) : Inv (holdTick s) := h

theorem devDrive_inv (clk dat : Option Bool) {s : State} (h : Inv s) : Inv (devDrive clk dat s) := h

/-! ### RXPOP keeps a good state, and so do the host's loop and its decoder -/

theorem rxpop_inv {s : State} (h : Inv s) : Inv (rxpop s) := by
  obtain ⟨-, heq⟩ | ⟨-, heq⟩ := rxpop_cases s <;> rw [heq]
  · exact respond_inv _ h
  · exact respond_inv _ (h.withRing h.ringWf.drop)

theorem rxDrainTurn_inv {s : State} (h : Inv s) : Inv (rxDrainTurn s) := by
  have hpop := rxpop_inv h
  simp only [rxDrainTurn]
  split
  · exact hpop
  · exact hpop

theorem mouseStep_inv {s : State} (h : Inv s) : Inv (mouseStep s) := by
  have hcnt : Inv (rxcnt s) := respond_inv _ h
  have hpop := rxpop_inv h
  unfold mouseStep
  split
  case h_1 =>
    dsimp only
    split
    · exact hcnt
    · exact hcnt
  case h_2 =>
    dsimp only
    split
    · exact hpop
    · exact hpop
  case h_3 => exact hpop
  case h_4 => exact hpop

/-! ### The steps of the engines and the environment keep a good state -/

theorem rxService_inv {s : State} (h : Inv s) : Inv (rxService s) := by
  have hring := rxService_ringWf h.wf h.ringWf
  obtain ⟨hp, -, hrx, hwriter, hir, hosc⟩ := h
  exact ⟨hp, (ringInv_iff (rxService s)).2 hring, rxService_rxInv hp hrx, hwriter, hir, hosc⟩

theorem irFire_inv {s : State} (h : Inv s) (hdue : irFireEnabled s = true) : Inv (irFire s) := by
  obtain ⟨hten, -⟩ := Bool.and_eq_true_iff.1 hdue
  exact h.withIr (h.irWf.fire h.wf hten)

theorem oscStep_inv {s : State} (h : Inv s) (hdue : oscStepEnabled s = true) : Inv (oscStep s) :=
  h.withOsc (h.oscWf.toggle h.wf (of_decide_eq_true hdue))

theorem irFireEnabled_iff (s : State) : irFireEnabled s = true ↔ s.ir.ten = true ∧ s.ir.tcnt = s.ir.ocr := by
  simp [irFireEnabled]

theorem tick_inv {s : State} (h : Inv s) (hfire : irFireEnabled s = false) (hdue : s.now ≠ s.osc.due) :
    Inv (tick s) := by
  have hir := h.irWf.tick (by rw [← irFireEnabled_iff, hfire]; nofun)
  have hosc := h.oscWf.tick hdue
  obtain ⟨hp, hring, hrx, hwriter, -, -⟩ := h
  exact ⟨hp, hring, hrx, hwriter, (irInv_iff (tick s)).2 hir, (oscInv_iff (tick s)).2 hosc⟩

theorem tickOrUrgent_inv {s : State} (h : Inv s) : Inv (tickOrUrgent s) := by
  obtain ⟨-, heq⟩ | ⟨-, hfire, heq⟩ | ⟨-, hfire, heq⟩ := tickOrUrgent_cases s <;> rw [heq]
  · exact holdTick_inv (rxService_inv h)
  · exact holdTick_inv (irFire_inv h hfire)
  · have hlimit := oscUnit_le_togglesAtOnce s.cfg
    obtain ⟨hosc, hdue⟩ := oscSettle_wf (oscTogglesAtOnce s.cfg) h.wf h.oscWf (by omega)
    rw [oscSettle_eq]
    exact tick_inv (h.withOsc hosc) hfire hdue

theorem resetEvent_inv {s : State} (h : Inv s) : Inv (resetEvent s) := by
  have hp := h.wf
  exact ⟨hp, (ringInv_iff (resetEvent s)).2 (ringWf_reset s.cfg _), rxFrameLen_pos hp,
    (writerInv_idle_iff rfl).2 rfl, (irInv_iff (resetEvent s)).2 (irWf_idle hp _ _ _),
    (oscInv_iff (resetEvent s)).2 (oscAt_wf hp _ _ _)⟩

/-! ### The steps of the writer keep a good state -/

/-- A step from `s` to `t` that changes the writer, the lines, the edge interrupt and the flags at most (R314). -/
def WriterStep (s t : State) : Prop :=
  t = { s with lines := t.lines, edge := t.edge, wr := t.wr, flags := t.flags }

/-- Such a step keeps a good state where it keeps the handshake. -/
theorem Inv.writerStep {s t : State} (h : Inv s) (hstep : WriterStep s t) (hwriter : WriterInv t) : Inv t := by
  obtain ⟨hp, hring, hrx, -, hir, hosc⟩ := h
  rw [hstep] at hwriter ⊢
  exact ⟨hp, hring, hrx, hwriter, hir, hosc⟩

theorem failedPoll_writerStep (s : State) : WriterStep s (failedPoll s) := by
  obtain ⟨-, heq⟩ | ⟨-, heq⟩ := failedPoll_cases s <;> rw [heq] <;> rfl

theorem wPollLow_writerStep (s : State) : WriterStep s (wPollLow s) := by
  obtain ⟨-, heq⟩ | ⟨-, heq⟩ := wPollLow_cases s <;> rw [heq]
  · exact failedPoll_writerStep s
  · rfl

theorem wPollHigh_writerStep (s : State) : WriterStep s (wPollHigh s) := by
  obtain ⟨-, i, -, heq⟩ | ⟨-, -, heq⟩ | ⟨-, heq⟩ := wPollHigh_cases s <;> rw [heq]
  · rfl
  · rfl
  · exact failedPoll_writerStep s

theorem wPollAckL_writerStep (s : State) : WriterStep s (wPollAckL s) := by
  obtain ⟨-, heq⟩ | ⟨-, heq⟩ := wPollAckL_cases s <;> rw [heq]
  · exact failedPoll_writerStep s
  · rfl

theorem wPollAckH_writerStep (s : State) : WriterStep s (wPollAckH s) := by
  obtain ⟨-, heq⟩ | ⟨-, heq⟩ := wPollAckH_cases s <;> rw [heq]
  · rfl
  · exact failedPoll_writerStep s

section
variable {s : State} (h : Inv s)
include h

theorem startWrite_inv (byte : Byte) : Inv (startWrite byte s) := h.writerStep rfl (startWrite_writerInv byte s)

theorem wReqDone_inv (hdue : wReqDoneEnabled s = true) : Inv (wReqDone s) := by
  obtain ⟨hws, -⟩ := Bool.and_eq_true_iff.1 hdue
  exact h.writerStep rfl (wReqDone_writerInv h.writerInv (of_decide_eq_true hws))

theorem wRtsDone_inv (hdue : wRtsDoneEnabled s = true) : Inv (wRtsDone s) := by
  obtain ⟨hws, -⟩ := Bool.and_eq_true_iff.1 hdue
  exact h.writerStep rfl (wRtsDone_writerInv h.writerInv (of_decide_eq_true hws) h.budget)

/-- A guarded poll of the writer keeps a good state where, in its wait state, its effect does. -/
theorem whenWriter_inv {ws : WState} {f : State → State} (hstep : WriterStep s (f s))
    (hwriter : s.wr.ws = ws → WriterInv (f s)) : Inv (whenWriter ws f s) :=
  whenEnabled_inv h fun hws => h.writerStep hstep (hwriter (of_decide_eq_true hws))

end

/-! ### The commands, the events and the step keep a good state -/

theorem exec_next_inv (i : Instr) {s : State} (h : Inv s) : ∃ t, exec i s = .next t ∧ Inv t := by
  cases i with
  | nop => exact ⟨_, rfl, respond_inv _ h⟩
  | irsend code =>
    simp only [exec, execIrsend]
    split
    · exact ⟨_, rfl, respond_inv _ h⟩
    · exact ⟨_, rfl, respond_inv _ (h.withIr (irWf_irsend code s.ir))⟩
  | irrpt => exact ⟨_, rfl, respond_inv _ (h.withIr (irWf_irrpt h.wf s.ir))⟩
  | ps2wr byte =>
    simp only [exec, execPs2wr]
    split
    · exact ⟨_, rfl, respond_inv _ h⟩
    · exact ⟨_, rfl, respond_inv _ (startWrite_inv h byte)⟩
  | rxpop => exact ⟨_, rfl, rxpop_inv h⟩
  | rxcnt => exact ⟨_, rfl, respond_inv _ h⟩
  | rdst => exact ⟨_, rfl, respond_inv _ h⟩
  | clrf mask => exact ⟨_, rfl, h⟩
  | rxen en =>
    simp only [exec, execRxen]
    split
    case isTrue => exact ⟨_, rfl, respond_inv _ h⟩
    case isFalse hidle =>
      have hws : s.wr.ws = .idle := by simpa [writerBusy] using hidle
      split
      · exact ⟨_, rfl, respond_inv _ (h.writerStep rfl (rearm_writerInv h.writerInv hws))⟩
      · exact ⟨_, rfl, respond_inv _ (h.writerStep rfl (maskReceive_writerInv h.writerInv))⟩
  | reserved9 | reservedA | reservedB | reservedC | reservedD | reservedE | reservedF =>
    exact ⟨_, rfl, respond_inv _ (raiseFlag_inv .ill h)⟩

theorem runEvent_next_inv (e : Event) {s : State} (h : Inv s) : ∃ t, runEvent e s = .next t ∧ Inv t := by
  cases e with
  | host cw => exact exec_next_inv (decode cw) h
  | rxDrain => exact ⟨_, rfl, rxDrainTurn_inv h⟩
  | mouseDecode => exact ⟨_, rfl, mouseStep_inv h⟩
  | tick => exact ⟨_, rfl, tickOrUrgent_inv h⟩
  | devDrive clk dat => exact ⟨_, rfl, devDrive_inv clk dat h⟩
  | rxService => exact ⟨_, rfl, whenEnabled_inv h fun _ => rxService_inv h⟩
  | wReqDone => exact ⟨_, rfl, whenEnabled_inv h (wReqDone_inv h)⟩
  | wRtsDone => exact ⟨_, rfl, whenEnabled_inv h (wRtsDone_inv h)⟩
  | wPollLow =>
    exact ⟨_, rfl, whenWriter_inv h (wPollLow_writerStep s) (wPollLow_writerInv h.writerInv · h.budget)⟩
  | wPollHigh =>
    exact ⟨_, rfl, whenWriter_inv h (wPollHigh_writerStep s) (wPollHigh_writerInv h.writerInv · h.budget)⟩
  | wPollAckL =>
    exact ⟨_, rfl, whenWriter_inv h (wPollAckL_writerStep s) (wPollAckL_writerInv h.writerInv · h.budget)⟩
  | wPollAckH =>
    exact ⟨_, rfl, whenWriter_inv h (wPollAckH_writerStep s) (wPollAckH_writerInv h.writerInv)⟩
  | irFire => exact ⟨_, rfl, whenEnabled_inv h (irFire_inv h)⟩
  | oscStep => exact ⟨_, rfl, whenEnabled_inv h (oscStep_inv h)⟩
  | reset => exact ⟨_, rfl, resetEvent_inv h⟩

theorem runEvent_inv {e : Event} {s t : State} (h : Inv s) (hrun : runEvent e s = .next t) : Inv t := by
  obtain ⟨u, hu, hinv⟩ := runEvent_next_inv e h
  rw [hrun] at hu
  cases hu
  exact hinv

/-- Settles O55: choosing the event touches no register of the invariants, and every event keeps them. -/
theorem everyStepKeepsTheInvariants : Obligations.EveryStepKeepsTheInvariants := by
  intro s t h hstep
  obtain ⟨-, hrun⟩ := step_next hstep
  exact runEvent_inv (takeEvent_inv h) hrun

/-- Settles O54: the registers of the reset state, one invariant after the other, are concrete values. -/
theorem invariantsAtReset : Obligations.InvariantsAtReset := by
  unfold Obligations.InvariantsAtReset
  decide

end Sys2Proof.Machine

/-! SUPPORT. The queue under the receive engine and RXPOP, the timer, a scheduled TICK, and the values of RESET. -/

namespace Sys2Proof.Machine

/-! ### The queue under the ninth sample and under RXPOP -/

/-- Within `T_RESYNC` of the last sample the watchdog leaves the count (R153). -/
theorem countBefore_of_gap_le {s : State} (h : s.now - s.rx.last ≤ s.cfg.lit.tResync) :
    countBefore s = s.rx.bitcnt := by
  have hlate : rxLate s = false := decide_eq_false (BitVec.not_lt.2 h)
  simp [countBefore, hlate]

/-- Settles O27: the ninth sample completes the byte, so that the service pushes it or finds the ring full. -/
theorem theNinthSampleAppendsOrDrops : Obligations.TheNinthSampleAppendsOrDrops := by
  intro s hp hpush hlen hring hcnt hgap
  have hr := (ringInv_iff s).1 hring
  have hcount : countBefore s = 8 := (countBefore_of_gap_le hgap).trans hcnt
  refine ⟨ringEntries_length_le hp s.ring, fun hfull => ?_, fun hfull => ?_⟩
  · have hstored : (rxService s).ring = ringPush s.cfg (rxService s).rx.acc s.ring := by
      simp [rxService_ring, hcount, hpush, hfull]
    rw [hstored]
    exact ⟨ringEntries_push hp hr hfull _, by simp [rxService_ovf, hfull]⟩
  · refine ⟨by simp [rxService_ring, hfull], by simp [rxService_ovf, hcount, hpush, hfull],
      by simp [rxService_bitcnt, hcount, hlen], ?_⟩
    rw [ringEntries_length]
    exact (ringFull_iff hp hr).1 hfull

/-- Settles O28: on a ring with entries RXPOP reads the byte at `HEAD`, the oldest entry, and drops it. -/
theorem rxpopTakesTheOldestEntry : Obligations.RxpopTakesTheOldestEntry := by
  intro s b rest hp hring hentries
  have hr := (ringInv_iff s).1 hring
  have hne : s.ring.head ≠ s.ring.tail := fun heq => by
    rw [(ringEntries_eq_nil_iff hp hr).2 heq] at hentries
    cases hentries
  obtain ⟨heq, -⟩ | ⟨-, hpop⟩ := rxpop_cases s
  · exact absurd heq hne
  · rw [ringEntries_eq_front_cons hp hr hne, List.cons.injEq] at hentries
    obtain ⟨hfront, hrest⟩ := hentries
    refine ⟨rxpop s, rfl, ?_⟩
    rw [hpop, hfront]
    exact ⟨rfl, hrest, rfl⟩

/-! ### Time -/

/-- After `k` microseconds a running timer has counted `k`, and the rest of the engine is as before (R44, R52). -/
theorem ticks_ir {s : State} (hten : s.ir.ten = true) (k : Nat) :
    (ticks k s).ir = { s.ir with tcnt := s.ir.tcnt + BitVec.ofNat 16 k } := by
  induction k generalizing s with
  | zero => simp [ticks]
  | succ k ih =>
    have hstep : (tick s).ir = { s.ir with tcnt := s.ir.tcnt + 1 } := by simp [hten]
    rw [ticks, ih (s := tick s) hten, hstep, BitVec.add_assoc, Nat.add_comm k, BitVec.ofNat_add]
    rfl

theorem ticks_now (k : Nat) (s : State) : (ticks k s).now = s.now + BitVec.ofNat 32 k := by
  induction k generalizing s with
  | zero => simp [ticks]
  | succ k ih =>
    rw [ticks, ih, tick_now, BitVec.add_assoc, Nat.add_comm k, BitVec.ofNat_add]
    rfl

/-- Settles O46: the counter equals the deadline after `OCR` microseconds and, below `2^16`, not before. -/
theorem theTimerMatchesAfterExactlyOcrTicks : Obligations.TheTimerMatchesAfterExactlyOcrTicks := by
  intro s k hten hzero hk
  have hmatch : BitVec.ofNat 16 k = s.ir.ocr ↔ k = s.ir.ocr.toNat := by
    have := s.ir.ocr.isLt
    rw [← BitVec.toNat_inj, BitVec.toNat_ofNat, Nat.mod_eq_of_lt (by omega)]
  refine ⟨?_, by rw [ticks_ir hten], by rw [ticks_ir hten], ticks_now k s⟩
  simp [irFireEnabled, ticks_ir hten, hten, hzero, hmatch]

/-- Settles O50: a scheduled TICK has three cases, two of them urgent; time passes in the third. -/
theorem tickWaitsForUrgentSteps : Obligations.TickWaitsForUrgentSteps := by
  intro s
  have hrx : rxServiceEnabled s = (s.edge.rxie && s.edge.rxif) := rfl
  rw [← hrx, ← irFireEnabled_iff, Bool.not_eq_true]
  obtain ⟨hservice, heq⟩ | ⟨hservice, hfire, heq⟩ | ⟨hservice, hfire, heq⟩ := tickOrUrgent_cases s
  case inl =>
    exact ⟨fun hno => absurd hservice (by simp [hno]),
      fun _ => ⟨_, rfl, by rw [heq]; rfl, .inl ⟨hservice, heq⟩⟩⟩
  case inr.inl =>
    exact ⟨fun _ hno => absurd hfire (by simp [hno]),
      fun _ => ⟨_, rfl, by rw [heq]; rfl, .inr ⟨hfire, heq⟩⟩⟩
  case inr.inr =>
    refine ⟨fun _ _ => ⟨(oscSettle (oscTogglesAtOnce s.cfg) s).osc, fun hdue => ?_, ?_⟩, fun hurgent => ?_⟩
    · rw [oscSettle_of_ne _ hdue]
    · rw [runEvent, heq, oscSettle_eq]
      rfl
    · simp [hservice, hfire] at hurgent

/-! ### Reset -/

/-- Settles O51: the values of R54 leave the interrupt disabled, the writer idle and the timer off, so that no guard
of an engine holds. -/
theorem resetGivesTheValuesOfTheSpec : Obligations.ResetGivesTheValuesOfTheSpec := by
  have hvalues (s : State) : ResetValues (resetEvent s) :=
    ⟨rfl, rfl, rfl, rfl, rfl, rfl, rfl, rfl, rfl, rfl, rfl⟩
  refine ⟨by decide, fun s => ⟨resetEvent s, rfl, hvalues s, rfl, rfl⟩, ?_⟩
  rintro s e ⟨-, -, hedge, -, -, -, hws, -, hir, -, -⟩ he
  have hrx : rxServiceEnabled s = false := by simp [rxServiceEnabled, hedge]
  have hfire : irFireEnabled s = false := by simp [irFireEnabled, hir]
  have hreq : wReqDoneEnabled s = false := by simp [wReqDoneEnabled, hws]
  have hrts : wRtsDoneEnabled s = false := by simp [wRtsDoneEnabled, hws]
  have hpoll (ws : WState) (hne : .idle ≠ ws) (f : State → State) : whenWriter ws f s = s :=
    whenEnabled_false (decide_eq_false (hws ▸ hne))
  simp only [List.mem_cons, List.not_mem_nil, or_false] at he
  rcases he with rfl | rfl | rfl | rfl | rfl | rfl | rfl | rfl
  · exact congrArg _ (whenEnabled_false hrx)
  · exact congrArg _ (whenEnabled_false hreq)
  · exact congrArg _ (whenEnabled_false hrts)
  · exact congrArg _ (hpoll .wl nofun wPollLow)
  · exact congrArg _ (hpoll .wh nofun wPollHigh)
  · exact congrArg _ (hpoll .al nofun wPollAckL)
  · exact congrArg _ (hpoll .ah nofun wPollAckH)
  · exact congrArg _ (whenEnabled_false hfire)

end Sys2Proof.Machine

/-! SUPPORT. The command word: the encoder's operand fields read back, the decoder's operands put back at their
places, and the rows of the opcode map (30_encoding.md R111 to R117). -/

namespace Sys2Proof

/-! ### Each operand from the field that the encoder emits -/

theorem argByte_append (byte : Byte) : argByte (0#4 ++ byte) = byte := BitVec.extractLsb'_append_eq_right

theorem argMask_append (mask : BitVec 5) : argMask (0#3 ++ mask ++ 0#4) = mask := by
  revert mask
  decide

theorem argEn_append (en : Bool) : argEn (0#11 ++ BitVec.ofBool en) = en := by
  cases en <;> rfl

/-- Settles O1: the commands with an operand read it back from its field; the word of any other is one constant. -/
theorem decodeInvertsEncode : Obligations.DecodeInvertsEncode := by
  intro i
  cases i with
  | irsend code => exact decode_irsend code
  | ps2wr byte => exact (decode_ps2wr _).trans (congrArg _ (argByte_append byte))
  | clrf mask => exact (decode_clrf _).trans (congrArg _ (argMask_append mask))
  | rxen en => exact (decode_rxen _).trans (congrArg _ (argEn_append en))
  | nop | irrpt | rxpop | rxcnt | rdst => rfl
  | reserved9 | reservedA | reservedB | reservedC | reservedD | reservedE | reservedF => rfl

/-! ### Each operand put back at its place is the operand bits that count (R112) -/

theorem append_argByte (arg : BitVec 12) : 0#4 ++ argByte arg = arg &&& 0x0FF := by
  apply BitVec.eq_of_getLsbD_eq
  intro i hi
  simp only [argByte, BitVec.getLsbD_and, BitVec.getLsbD_append]
  interval_cases i <;> simp

theorem append_argMask (arg : BitVec 12) : 0#3 ++ argMask arg ++ 0#4 = arg &&& 0x1F0 := by
  apply BitVec.eq_of_getLsbD_eq
  intro i hi
  simp only [argMask, BitVec.getLsbD_and, BitVec.getLsbD_append]
  interval_cases i <;> simp

theorem append_argEn (arg : BitVec 12) : 0#11 ++ BitVec.ofBool (argEn arg) = arg &&& 0x001 := by
  apply BitVec.eq_of_getLsbD_eq
  intro i hi
  simp only [argEn, BitVec.getLsbD_and, BitVec.getLsbD_append]
  interval_cases i <;> simp

/-- What the decoder keeps of a word: the opcode and the operand bits that count. -/
theorem decode_op_arg (w : Word) :
    (decode w).op = opField w ∧ (decode w).arg = argField w &&& careArg (opField w) := by
  have hcode : argField w &&& 0xFFF#12 = argField w := BitVec.and_allOnes
  obtain h | h | h | h | h | h | h | h | h | h | h | h | h | h | h | h := op_cases (opField w) <;>
    simp [decode, h, Instr.op, Instr.arg, careArg, hcode, append_argByte, append_argMask, append_argEn]

theorem encode_decode (w : Word) : encode (decode w) = opField w ++ (argField w &&& careArg (opField w)) := by
  obtain ⟨hop, harg⟩ := decode_op_arg w
  rw [encode, hop, harg]

/-- Words that re-encode alike decode alike, since decoding inverts encoding. -/
theorem decode_eq_of_care {w v : Word} (hop : opField w = opField v)
    (harg : argField w &&& careArg (opField w) = argField v &&& careArg (opField w)) : decode w = decode v :=
  calc decode w = decode (encode (decode w)) := (decodeInvertsEncode _).symm
    _ = decode (encode (decode v)) := by rw [encode_decode, encode_decode, harg, hop]
    _ = decode v := decodeInvertsEncode _

theorem argByte_argField (w : Word) : argByte (argField w) = w.extractLsb' 0 8 := by
  ext i hi
  simp [argByte, argField]

theorem argMask_argField (w : Word) : argMask (argField w) = w.extractLsb' 4 5 := by
  ext i hi
  simp [argMask, argField]

theorem argEn_argField (w : Word) : argEn (argField w) = w.getLsbD 0 := by
  simp [argEn, argField]

/-- Settles O2: the decoder's branch is that of the opcode; for ignored bits see `decode_eq_of_care`. -/
theorem operandsAreReadAndIgnoredBitsAreIgnored : Obligations.OperandsAreReadAndIgnoredBitsAreIgnored := by
  refine ⟨fun w h => ?_, fun w h => ?_, fun w h => ?_, fun w h => ?_,
    fun w => ⟨fun h => ?_, fun h => ?_, fun h => ?_, fun h => ?_, fun h => ?_⟩,
    fun _ _ => decode_eq_of_care, encode_decode⟩
  · simp [decode, h, argField]
  · simp [decode, h, argByte_argField]
  · simp [decode, h, argMask_argField]
  · simp [decode, h, argEn_argField]
  all_goals simp [decode, h]

/-! ### The opcode map -/

/-- The row of a command, for every command (R113). -/
theorem encode_selects_row (i : Instr) : Laws.EncodeSelectsRow.Statement i := by
  cases i with
  | nop => exact Laws.EncodeSelectsRow.nop
  | irsend code => exact Laws.EncodeSelectsRow.irsend code
  | irrpt => exact Laws.EncodeSelectsRow.irrpt
  | ps2wr byte => exact Laws.EncodeSelectsRow.ps2wr byte
  | rxpop => exact Laws.EncodeSelectsRow.rxpop
  | rxcnt => exact Laws.EncodeSelectsRow.rxcnt
  | rdst => exact Laws.EncodeSelectsRow.rdst
  | clrf mask => exact Laws.EncodeSelectsRow.clrf mask
  | rxen en => exact Laws.EncodeSelectsRow.rxen en
  | reserved9 => exact Laws.EncodeSelectsRow.reserved9
  | reservedA => exact Laws.EncodeSelectsRow.reservedA
  | reservedB => exact Laws.EncodeSelectsRow.reservedB
  | reservedC => exact Laws.EncodeSelectsRow.reservedC
  | reservedD => exact Laws.EncodeSelectsRow.reservedD
  | reservedE => exact Laws.EncodeSelectsRow.reservedE
  | reservedF => exact Laws.EncodeSelectsRow.reservedF

theorem opcodeMap_mask : ∀ r ∈ opcodeMap, r.mask = 0xF000 := by decide

theorem opcodeMap_eq_of_value : ∀ q ∈ opcodeMap, ∀ r ∈ opcodeMap, q.value = r.value → q = r := by decide

/-- Every row looks at the opcode alone. -/
theorem word_and_mask (w : Word) : w &&& 0xF000 = opField w ++ 0#12 :=
  (congrArg (· &&& 0xF000) (word_eq_append w)).trans (Laws.EncodeSelectsRow.op_append_mask _ _)

/-- Settles O3: a word and the re-encoding of its command have one opcode, and rows differ in their opcodes. -/
theorem everyWordSelectsExactlyOneRow : Obligations.EveryWordSelectsExactlyOneRow := by
  intro w
  obtain ⟨r, hr, hname, hsel⟩ := encode_selects_row (decode w)
  have hsame : encode (decode w) &&& 0xF000 = w &&& 0xF000 := by
    rw [Laws.EncodeSelectsRow.encode_opcode, word_and_mask, (decode_op_arg w).1]
  rw [opcodeMap_mask r hr, hsame] at hsel
  refine ⟨r, hr, by rw [opcodeMap_mask r hr, hsel], hname, fun q hq hqsel => opcodeMap_eq_of_value q hq r hr ?_⟩
  rw [← hqsel, opcodeMap_mask q hq, hsel]

/-- Settles O4: twelve closed words. -/
theorem exampleWordsDecode : Obligations.ExampleWordsDecode := by
  unfold Obligations.ExampleWordsDecode
  decide

/-! ### Assembled lines -/

/-- A numeral that fits the operand field stands there alone (R116). -/
theorem op_or_numeral (op : BitVec 4) {n : Nat} (hn : n < 4096) :
    (op ++ 0#12 : Word) ||| BitVec.ofNat 16 n = op ++ BitVec.ofNat 12 n := by
  have hnum : BitVec.ofNat 16 n = 0#4 ++ BitVec.ofNat 12 n := by
    apply BitVec.eq_of_toNat_eq
    rw [BitVec.toNat_append, BitVec.toNat_ofNat, BitVec.toNat_ofNat, BitVec.toNat_ofNat, Nat.zero_mod,
      Nat.zero_shiftLeft, Nat.zero_or]
    omega
  rw [hnum]
  exact BitVec.or_append.trans (by rw [BitVec.or_zero, BitVec.zero_or])

theorem argByte_ofNat (n : Nat) : argByte (BitVec.ofNat 12 n) = BitVec.ofNat 8 n := by
  apply BitVec.eq_of_toNat_eq
  simp [argByte]

theorem argMask_ofNat (n : Nat) : argMask (BitVec.ofNat 12 n) = BitVec.ofNat 5 (n / 16) := by
  apply BitVec.eq_of_toNat_eq
  simp [argMask, Nat.shiftRight_eq_div_pow]
  omega

/-- Settles O5: an assembled numeral is the operand field, where the decoder reads the operand. -/
theorem assembledLinesDecode : Obligations.AssembledLinesDecode := by
  refine ⟨fun n hn => ?_, fun n hn => ?_, fun n hn => ?_, by decide⟩
  · exact (congrArg decode (op_or_numeral 0x1 hn)).trans (decode_irsend _)
  · rw [← argByte_ofNat]
    exact (congrArg decode (op_or_numeral 0x3 (by omega))).trans (decode_ps2wr _)
  · rw [← argMask_ofNat]
    exact (congrArg decode (op_or_numeral 0x7 hn)).trans (decode_clrf _)

end Sys2Proof

namespace Sys2Proof.Machine

/-- Settles O7: the placed word is the head of the schedule, and taking it leaves the state it was placed on. -/
theorem fetchWordIsTheNextCommand : Obligations.FetchWordIsTheNextCommand := by
  intro s w hp hw
  have hword : w % 2 ^ 16 = w := Nat.mod_eq_of_lt hw
  have hsched : (s.withFetchWord 16 w).sched = .host (BitVec.ofNat 16 w) :: s.sched := by
    rw [State.withFetchWord, scheduleWord, hword]
  refine ⟨?_, ?_⟩
  · rw [step_eq (s := s.withFetchWord 16 w) hp, nextEvent_cons hsched, takeEvent_cons hsched]
    rfl
  · rw [decodeTableWord, decodePort, if_pos (Nat.le_refl 16), hword]

end Sys2Proof.Machine

/-! SUPPORT. The wire formats and the engine that sends them: the parity bit, the length of a frame, and the frames
that the arms IRSEND and IRRPT put on the envelope (R101, R104 to R107). -/

namespace Sys2Proof.Machine

/-! ### Parity -/

/-- Folding exclusive or over bits counts the ones modulo 2. -/
theorem sum_toNat_add_foldl_xor (bits : List Bool) (x : Bool) :
    ((bits.map Bool.toNat).sum + (bits.foldl (· ^^ ·) x).toNat) % 2 = x.toNat % 2 := by
  induction bits generalizing x with
  | nil => simp
  | cons b bits ih =>
    have hrest := ih (x ^^ b)
    have hxor : (x ^^ b).toNat % 2 = (x.toNat + b.toNat) % 2 := by cases x <;> cases b <;> rfl
    rw [List.map_cons, List.sum_cons, List.foldl_cons]
    omega

/-- Settles O37: the parity bit is the exclusive or that starts at 1, so that the ones are odd in number. -/
theorem parityIsOdd : Obligations.ParityIsOdd := fun b =>
  ⟨rfl, sum_toNat_add_foldl_xor ((List.range 8).map fun k => b.getLsbD k) true⟩

/-! ### The time a frame lasts -/

theorem totalTime_append (l m : List Interval) : totalTime (l ++ m) = totalTime l + totalTime m := by
  simp [totalTime]

/-- The bit sent as number `j` is a bit of the code, in either order (R75). -/
theorem sentIndex_lt (msbFirst : Bool) {j : Nat} (hj : j < 12) : (if msbFirst then 11 - j else j) < 12 := by
  split <;> omega

/-- The complement of a code has the complements of its bits, in the same order. -/
theorem codeBitsInOrder_not (msbFirst : Bool) (code : BitVec 12) :
    codeBitsInOrder msbFirst (~~~code) = (codeBitsInOrder msbFirst code).map (!·) := by
  rw [codeBitsInOrder, codeBitsInOrder, List.map_map]
  refine List.map_congr_left fun j hj => ?_
  simp [sentIndex_lt msbFirst (List.mem_range.1 hj)]

/-- A bit and its complement take both silences, whichever the bit is (R107). -/
theorem totalTime_bits_add_not (l : Literals) (bits : List Bool) :
    totalTime (bits.flatMap (bitIntervals l)) + totalTime ((bits.map (!·)).flatMap (bitIntervals l)) =
      bits.length * (2 * l.tPulse.toNat + l.tOne.toNat + l.tZero.toNat) := by
  induction bits with
  | nil => simp [totalTime]
  | cons b bits ih =>
    rw [List.map_cons, List.flatMap_cons, List.flatMap_cons, totalTime_append, totalTime_append, List.length_cons,
      Nat.succ_mul, ← ih]
    cases b <;> simp [totalTime, bitIntervals] <;> omega

theorem totalTime_codeFrame (l : Literals) (msbFirst : Bool) (code : BitVec 12) :
    totalTime (codeFrame l msbFirst code) =
      l.tStart.toNat + l.tGapCode.toNat + 24 * l.tPulse.toNat + 12 * l.tOne.toNat + 12 * l.tZero.toNat +
        l.tPulse.toNat := by
  have hbits := totalTime_bits_add_not l (codeBitsInOrder msbFirst code)
  have hlength : (codeBitsInOrder msbFirst code).length = 12 := by simp [codeBitsInOrder]
  have hstart : totalTime [(true, l.tStart.toNat), (false, l.tGapCode.toNat)] =
    l.tStart.toNat + l.tGapCode.toNat := rfl
  have hend : totalTime [(true, l.tPulse.toNat)] = l.tPulse.toNat := rfl
  rw [codeFrame, codeBitsInOrder_not, totalTime_append, totalTime_append, totalTime_append, hstart, hend]
  rw [hlength] at hbits
  omega

/-- Settles O44: the total of a code frame does not name the code. -/
theorem framesLastTheSameForEveryCode : Obligations.FramesLastTheSameForEveryCode :=
  ⟨totalTime_codeFrame, totalTime_codeFrame .d00, rfl⟩

/-! ### One firing, by the phase it finds (R246) -/

section
variable {p : Params} {e : IrEngine}

theorem fireIr_start (h : e.ph = phStart) : fireIr p e = beginInterval false p.lit.tGapCode 1 e := by
  simp [fireIr, h, phStart]

theorem phase_toNat_succ {n : Nat} (hn : n < 64) (h : e.ph = BitVec.ofNat 6 n) :
    e.ph.toNat = n ∧ e.ph + 1 = BitVec.ofNat 6 (n + 1) := by
  rw [h, BitVec.toNat_ofNat, BitVec.ofNat_add]
  exact ⟨Nat.mod_eq_of_lt hn, rfl⟩

/-- An odd sub-phase: the pulse of the next bit, and at `COMPL_AT` the complement. -/
theorem fireIr_odd {n : Nat} (hn : n ≤ 47) (hodd : n % 2 = 1) (h : e.ph = BitVec.ofNat 6 n) :
    fireIr p e = { e with tcnt := 0, gate := true, ocr := p.lit.tPulse, ph := BitVec.ofNat 6 (n + 1),
                          sr := if n = p.lit.complAt then ~~~e.sr else e.sr } := by
  obtain ⟨hph, hnext⟩ := phase_toNat_succ (by omega) h
  simp only [fireIr, hph, hnext, Config.nSub, hodd, beginInterval]
  rw [if_neg (by omega), if_pos (by omega), if_pos trivial]
  split <;> rfl

/-- An even sub-phase: the silence of the bit. -/
theorem fireIr_even {n : Nat} (hlow : 2 ≤ n) (hn : n ≤ 48) (heven : n % 2 = 0) (h : e.ph = BitVec.ofNat 6 n) :
    fireIr p e = { e with tcnt := 0, gate := false, ph := BitVec.ofNat 6 (n + 1),
                          ocr := if txbit p.irMsbFirst e.sr n then p.lit.tOne else p.lit.tZero } := by
  obtain ⟨hph, hnext⟩ := phase_toNat_succ (by omega) h
  simp only [fireIr, hph, hnext, Config.nSub, heven, beginInterval]
  rw [if_neg (by omega), if_pos (by omega), if_neg (by omega)]

theorem fireIr_endPulse (h : e.ph = phEndPulse) : fireIr p e = beginInterval true p.lit.tPulse phStop e := by
  simp [fireIr, h, phEndPulse, Config.nSub]

theorem fireIr_stop (h : e.ph = phStop) : fireIr p e = stopIr e := by
  simp [fireIr, h, phStop, Config.nSub]

theorem fireIr_repeat (h : e.ph = phRepeat) : fireIr p e = beginInterval false p.lit.tGapRpt phEndPulse e := by
  simp [fireIr, h, phRepeat, Config.nSub]

end

/-! ### Several firings -/

theorem firings_add (p : Params) (m n : Nat) (e : IrEngine) : firings p (m + n) e = firings p n (firings p m e) := by
  induction m generalizing e with
  | zero => rw [Nat.zero_add, firings]
  | succ m ih => rw [Nat.succ_add, firings, firings, ih]

theorem envelope_add (p : Params) (m n : Nat) (e : IrEngine) :
    envelope p (m + n) e = envelope p m e ++ envelope p n (firings p m e) := by
  induction m generalizing e with
  | zero => rw [Nat.zero_add, firings, envelope, List.nil_append]
  | succ m ih => rw [Nat.succ_add, firings, envelope, envelope, ih, List.cons_append]

/-- The engine at the start of a pulse, `n` the phase of the firing that ends it. -/
def pulseBegun (l : Literals) (sr : Word) (n : Nat) : IrEngine :=
  { ph := BitVec.ofNat 6 n, sr := sr, tcnt := 0, ocr := l.tPulse, ten := true, gate := true }

/-- The register that bit `j` of a code frame is read from: the code for the first twelve bits, then its complement
(R247). -/
def registerOfBit (code : BitVec 12) (j : Nat) : Word :=
  if j < 12 then code.zeroExtend 16 else ~~~(code.zeroExtend 16)

/-- The register changes where the complement falls, between bit 11 and bit 12. -/
theorem registerOfBit_succ (code : BitVec 12) (j : Nat) : registerOfBit code (j + 1) =
    if 2 * j + 3 = 25 then ~~~(registerOfBit code j) else registerOfBit code j := by
  obtain hlt | rfl | hgt := Nat.lt_trichotomy j 11
  · rw [registerOfBit, registerOfBit, if_pos (by omega : j + 1 < 12), if_pos (by omega : j < 12),
      if_neg (by omega : 2 * j + 3 ≠ 25)]
  · rfl
  · rw [registerOfBit, registerOfBit, if_neg (by omega : ¬ j + 1 < 12), if_neg (by omega : ¬ j < 12),
      if_neg (by omega : 2 * j + 3 ≠ 25)]

/-- What the arm IRSEND leaves in the engine: the start pulse of a code frame (R242). -/
def codeArmed (l : Literals) (code : BitVec 12) : IrEngine :=
  { ph := phStart, sr := code.zeroExtend 16, tcnt := 0, ocr := l.tStart, ten := true, gate := true }

theorem exec_irsend {code : BitVec 12} (hcode : code ≠ 0) (s : State) :
    exec (.irsend code) s = .next (respond respYes { s with ir := codeArmed s.cfg.lit code }) := by
  rw [exec, execIrsend, if_neg hcode]
  rfl

theorem txbit_silence (msbFirst : Bool) (sr : Word) (j : Nat) :
    txbit msbFirst sr (2 * j + 2) = sr.getLsbD (if msbFirst then 11 - j % 12 else j % 12) := by
  have hbit : (2 * j + 2) / 2 - 1 = j := by omega
  rw [txbit, hbit]
  rfl

/-- The twelve bits read from the register before the complement, then from the complement, are those of the frame, in
the order of R75. -/
theorem bits_of_registers (msbFirst : Bool) (code : BitVec 12) :
    ((List.range 24).map fun j => txbit msbFirst (registerOfBit code j) (2 * j + 2)) =
      codeBitsInOrder msbFirst code ++ codeBitsInOrder msbFirst (~~~code) := by
  have hsplit : List.range 24 = List.range 12 ++ (List.range 12).map (12 + ·) := rfl
  rw [hsplit, List.map_append, List.map_map]
  refine congrArg₂ _ (List.map_congr_left fun j hj => ?_) (List.map_congr_left fun j hj => ?_)
  · have hj := List.mem_range.1 hj
    have hlt := sentIndex_lt msbFirst hj
    rw [txbit_silence, Nat.mod_eq_of_lt hj, registerOfBit, if_pos hj]
    simp [hlt.trans (by decide : 12 < 16)]
  · have hj := List.mem_range.1 hj
    have hlt := sentIndex_lt msbFirst hj
    rw [Function.comp_apply, txbit_silence, Nat.add_mod_left, Nat.mod_eq_of_lt hj, registerOfBit, if_neg (by omega)]
    simp [hlt, hlt.trans (by decide : 12 < 16)]

section
variable {p : Params} (hcompl : p.lit.complAt = 25) (code : BitVec 12)
include hcompl

theorem firings_codeArmed :
    envelope p 2 (codeArmed p.lit code) = [(true, p.lit.tStart.toNat), (false, p.lit.tGapCode.toNat)] ∧
      firings p 2 (codeArmed p.lit code) = pulseBegun p.lit (registerOfBit code 0) 2 := by
  have hgap := fireIr_start (p := p) (e := codeArmed p.lit code) rfl
  have hpulse := fireIr_odd (p := p) (e := fireIr p (codeArmed p.lit code)) (n := 1) (by omega) rfl (by rw [hgap]; rfl)
  constructor
  · rw [envelope, envelope, envelope, hgap]
    rfl
  · rw [firings, firings, firings, hpulse, hgap, hcompl]
    rfl

/-- Two firings send one bit and begin the next pulse, for the last bit the end pulse (R104, R247). -/
theorem firings_bit {j : Nat} (hj : j < 24) :
    envelope p 2 (pulseBegun p.lit (registerOfBit code j) (2 * j + 2)) =
        bitIntervals p.lit (txbit p.irMsbFirst (registerOfBit code j) (2 * j + 2)) ∧
      firings p 2 (pulseBegun p.lit (registerOfBit code j) (2 * j + 2)) =
        pulseBegun p.lit (registerOfBit code (j + 1)) (2 * (j + 1) + 2) := by
  have hsilence := fireIr_even (p := p) (e := pulseBegun p.lit (registerOfBit code j) (2 * j + 2)) (by omega) (by omega)
    (by omega) rfl
  refine ⟨?_, ?_⟩
  · rw [envelope, envelope, envelope, hsilence, bitIntervals, pulseBegun, ← apply_ite BitVec.toNat]
  · rw [firings, firings, firings, hsilence, registerOfBit_succ]
    by_cases hlast : j = 23
    · subst hlast
      rfl
    · rw [fireIr_odd (n := 2 * j + 3) (by omega) (by omega) rfl, hcompl]
      rfl

/-- The first `k` bits of a code frame. -/
theorem firings_bits {k : Nat} (hk : k ≤ 24) :
    envelope p (2 * k) (pulseBegun p.lit (registerOfBit code 0) 2) =
        ((List.range k).map fun j => txbit p.irMsbFirst (registerOfBit code j) (2 * j + 2)).flatMap
          (bitIntervals p.lit) ∧
      firings p (2 * k) (pulseBegun p.lit (registerOfBit code 0) 2) =
        pulseBegun p.lit (registerOfBit code k) (2 * k + 2) := by
  induction k with
  | zero => exact ⟨rfl, rfl⟩
  | succ k ih =>
    obtain ⟨henv, hfire⟩ := ih (by omega)
    obtain ⟨hbit, hnext⟩ := firings_bit hcompl code (by omega : k < 24)
    rw [Nat.mul_succ, envelope_add, firings_add, henv, hfire, hbit, hnext, List.range_succ, List.map_append,
      List.flatMap_append, List.map_singleton, List.flatMap_singleton]
    exact ⟨rfl, rfl⟩

end

/-- Settles O42: start pulse and gap, 24 bits of two firings each, the end pulse, then the stop. -/
theorem irsendSendsTheCodeFrame : Obligations.IrsendSendsTheCodeFrame := by
  intro code s hcode hcompl
  refine ⟨_, exec_irsend hcode s, ?_⟩
  obtain ⟨hstart, harm⟩ := firings_codeArmed hcompl code
  obtain ⟨hbits, hend⟩ := firings_bits hcompl code (Nat.le_refl 24)
  have hstop := fireIr_stop (p := s.cfg) (e := pulseBegun s.cfg.lit (registerOfBit code 24) 50) rfl
  rw [respond_cfg, respond_ir]
  constructor
  · rw [envelope_add _ 2 49, envelope_add _ 48 1, hstart, harm, hbits, hend, bits_of_registers, List.flatMap_append,
      codeFrame, List.append_assoc, List.append_assoc, List.append_assoc]
    rfl
  · rw [firings_add _ 2 49, firings_add _ 48 1, harm, hend, firings, firings, hstop]
    rfl

/-- Settles O43: the silence of a repeat frame is followed by the end pulse, which the stop ends. -/
theorem irrptSendsTheRepeatFrame : Obligations.IrrptSendsTheRepeatFrame := by
  intro s
  have hgap := fireIr_repeat (p := s.cfg) (e := armIr s.cfg.lit phRepeat s.ir) rfl
  have hpulse := fireIr_endPulse (p := s.cfg) (e := fireIr s.cfg (armIr s.cfg.lit phRepeat s.ir)) (by rw [hgap]; rfl)
  have hstop := fireIr_stop (p := s.cfg) (e := fireIr s.cfg (fireIr s.cfg (armIr s.cfg.lit phRepeat s.ir)))
    (by rw [hpulse]; rfl)
  have hframe : envelope s.cfg 3 (armIr s.cfg.lit phRepeat s.ir) = repeatFrame s.cfg.lit := by
    simp only [envelope, hgap]
    rfl
  refine ⟨_, rfl, hframe, fun hlit => hframe.trans ?_, ?_⟩
  · rw [hlit]
    rfl
  · rw [respond_cfg, respond_ir, firings, firings, firings, firings, hstop, hpulse, hgap]
    rfl

end Sys2Proof.Machine

/-! SUPPORT. Runs of several steps: the host's loop RXDRAIN and the script of a PS/2 frame (R117, R118). -/

namespace Sys2Proof.Machine

/-! ### Runs -/

theorem run_succ {M : Host.Core} {n : Nat} {s t : M.State} (h : M.step s = .next t) : M.run (n + 1) s = M.run n t := by
  rw [Host.Core.run, h]

theorem run_add {M : Host.Core} {m : Nat} (n : Nat) {s t : M.State} (h : M.run m s = .next t) :
    M.run (m + n) s = M.run n t := by
  induction m generalizing s with
  | zero =>
    cases h
    rw [Nat.zero_add]
  | succ m ih =>
    rw [Host.Core.run] at h
    split at h
    case h_1 v hstep => rw [Nat.succ_add, run_succ hstep, ih h]
    case h_2 => cases h
    case h_3 => cases h

/-- `n` steps of the machine lead from `s` to `t`. -/
def Reaches (n : Nat) (s t : State) : Prop := Host.Core.run Sys2Proof.core n s = .next t

theorem Reaches.trans {m n : Nat} {s t u : State} (h : Reaches m s t) (h' : Reaches n t u) : Reaches (m + n) s u :=
  (run_add n h).trans h'

theorem Reaches.cons {n : Nat} {s t u : State} (h : Reaches 1 s t) (h' : Reaches n t u) : Reaches (n + 1) s u :=
  Nat.add_comm 1 n ▸ h.trans h'

/-- One step that takes the head of the schedule. -/
theorem reaches_event {s t : State} {e : Event} {rest : List Event} (hp : s.cfg.wf = true)
    (hsched : s.sched = e :: rest) (hrun : runEvent e { s with sched := rest } = .next t) : Reaches 1 s t := by
  have hstep : step s = .next t := by rw [step_eq hp, nextEvent_cons hsched, takeEvent_cons hsched, hrun]
  exact run_succ (M := Sys2Proof.core) hstep

/-! ### RXDRAIN (R117) -/

theorem rxDrainTurn_of_eq {s : State} (h : s.ring.head = s.ring.tail) : rxDrainTurn s = respond 0x0000 s := by
  obtain ⟨-, hpop⟩ | ⟨hne, -⟩ := rxpop_cases s
  · simp [rxDrainTurn, hpop, respValid]
  · exact absurd h hne

theorem rxDrainTurn_of_ne {s : State} (h : s.ring.head ≠ s.ring.tail) : rxDrainTurn s =
    respond (respByte (ringFront s.cfg s.ring))
      { s with ring := ringDrop s.cfg s.ring, sched := .rxDrain :: s.sched } := by
  obtain ⟨heq, -⟩ | ⟨-, hpop⟩ := rxpop_cases s
  · exact absurd heq h
  · simp only [rxDrainTurn, hpop, respond_resp, respValid_respByte, if_true]
    rfl

/-- The whole loop: a turn for each entry, and the one that finds the ring empty. -/
theorem reaches_rxDrain {s : State} {rest : List Event} (hp : s.cfg.wf = true) (hr : RingWf s.cfg s.ring)
    (hsched : s.sched = .rxDrain :: rest) : Reaches ((ringEntries s.cfg s.ring).length + 1) s
      { s with sched := rest, resp := 0x0000, ring.head := s.ring.tail } := by
  have hturn : Reaches 1 s (rxDrainTurn { s with sched := rest }) := reaches_event hp hsched rfl
  generalize hentries : ringEntries s.cfg s.ring = l
  induction l generalizing s with
  | nil =>
    have heq := (ringEntries_eq_nil_iff hp hr).1 hentries
    rw [rxDrainTurn_of_eq (s := { s with sched := rest }) heq] at hturn
    rw [← heq]
    exact hturn
  | cons b l ih =>
    have hne : s.ring.head ≠ s.ring.tail := fun heq => by
      rw [(ringEntries_eq_nil_iff hp hr).2 heq] at hentries
      cases hentries
    rw [ringEntries_eq_front_cons hp hr hne, List.cons.injEq] at hentries
    obtain ⟨-, hrest⟩ := hentries
    rw [rxDrainTurn_of_ne (s := { s with sched := rest }) hne] at hturn
    exact hturn.cons (ih (s := respond _ _) hp hr.drop rfl (reaches_event hp rfl rfl) hrest)

/-- Settles O60: an RXPOP on either ring is one turn, and the loop is the induction on its entries. -/
theorem rxdrainPopsUntilTheRingIsEmpty : Obligations.RxdrainPopsUntilTheRingIsEmpty :=
  ⟨fun _ => ⟨fun heq => congrArg _ (rxDrainTurn_of_eq heq), fun hne => congrArg _ (rxDrainTurn_of_ne hne)⟩,
    fun s _ hp hring hsched => reaches_rxDrain hp ((ringInv_iff s).1 hring) hsched⟩

end Sys2Proof.Machine

/-! SUPPORT. The script of a PS/2 frame, step by step (R100, R118, R165). -/

namespace Sys2Proof.Machine

/-! ### The device's drives -/

/-- A change of the device's data driver cannot make an edge of the clock (R143, R144). -/
theorem devDrive_dat_eq (d : Bool) (s : State) : devDrive none (some d) s = { s with lines.ddat := d } := by
  obtain ⟨_, _, ⟨hc, _, dc, _⟩, ⟨_, f⟩, _⟩ := s
  cases hc <;> cases dc <;> cases f <;> rfl

/-- Releasing the device's clock driver cannot make a falling edge. -/
theorem devDrive_release_eq (s : State) : devDrive (some true) none s = { s with lines.dclk := true } := by
  obtain ⟨_, _, ⟨hc, _, dc, _⟩, ⟨_, f⟩, _⟩ := s
  cases hc <;> cases dc <;> cases f <;> rfl

/-- Pulling the clock low latches an edge where the line was high. -/
theorem devDrive_pull_eq (s : State) : devDrive (some false) none s =
    { s with lines.dclk := false, edge.rxif := s.edge.rxif || clkLine s.lines } := by
  simp [devDrive, setLines, driveLines, clkLine]

/-! ### Scheduled events -/

/-- The state with `l` as its schedule. -/
def withSched (l : List Event) (s : State) : State := { s with sched := l }

/-- While the timer is off a `TICK` passes time and nothing else (R45, R52). -/
theorem tick_of_stopped {s : State} (hten : s.ir.ten = false) : tick s = { s with now := s.now + 1 } := by
  rw [tick, if_neg (by simp [hten])]

section
variable {s : State} (hp : s.cfg.wf = true) (l : List Event)
include hp

theorem reaches_devDrive (clk dat : Option Bool) :
    Reaches 1 (withSched (.devDrive clk dat :: l) s) (withSched l (devDrive clk dat s)) :=
  reaches_event hp rfl rfl

/-- A `TICK` that finds the receive service enabled waits for it (R11). -/
theorem reaches_service (hrx : rxServiceEnabled s = true) :
    Reaches 1 (withSched (.tick :: l) s) (withSched (.tick :: l) (rxService s)) :=
  reaches_event hp rfl (congrArg Host.Outcome.next (if_pos hrx))

section
variable (hrx : rxServiceEnabled s = false) (hten : s.ir.ten = false)
include hrx hten

/-- A `TICK` that finds no urgent step enabled. -/
theorem reaches_tick : ∃ o, Reaches 1 (withSched (.tick :: l) s)
    (withSched l { s with now := s.now + 1, osc := o }) := by
  have hrx : rxServiceEnabled (withSched l s) = false := hrx
  have hfire : irFireEnabled (withSched l s) = false := by simp [withSched, irFireEnabled, hten]
  have htick : tickOrUrgent (withSched l s) = tick (oscSettle (oscTogglesAtOnce s.cfg) (withSched l s)) := by
    rw [tickOrUrgent, hrx, hfire]
    rfl
  rw [oscSettle_eq, tick_of_stopped (s := { withSched l s with osc := _ }) hten] at htick
  exact ⟨_, reaches_event hp rfl (congrArg Host.Outcome.next htick)⟩

theorem reaches_ticks (n : Nat) : ∃ o, Reaches n (withSched (List.replicate n .tick ++ l) s)
    (withSched l { s with now := s.now + BitVec.ofNat 32 n, osc := o }) := by
  induction n generalizing s with
  | zero =>
    refine ⟨s.osc, congrArg Host.Outcome.next ?_⟩
    rw [List.replicate_zero, List.nil_append, BitVec.add_zero]
  | succ n ih =>
    obtain ⟨o, htick⟩ := reaches_tick hp (List.replicate n .tick ++ l) hrx hten
    obtain ⟨o', hrest⟩ := ih (s := { s with now := s.now + 1, osc := o }) hp hrx hten
    refine ⟨o', ?_⟩
    have hnow : s.now + BitVec.ofNat 32 (n + 1) = s.now + 1 + BitVec.ofNat 32 n := by
      rw [BitVec.add_assoc, Nat.add_comm, BitVec.ofNat_add]
      rfl
    rw [hnow]
    exact htick.cons hrest

/-- A `WAIT` in which no urgent step becomes enabled (R118). -/
theorem reaches_wait : ∃ o, Reaches 41 (withSched (waitEvents Config.halfPeriod ++ l) s)
    (withSched l { s with now := s.now + 40, osc := o }) := by
  obtain ⟨o, hticks⟩ := reaches_ticks hp (.irFire :: l) hrx hten 40
  have hfire (t : State) (ht : t.ir = s.ir) : whenEnabled irFireEnabled irFire t = t :=
    whenEnabled_false (by simp [irFireEnabled, ht, hten])
  exact ⟨o, hticks.trans (reaches_event hp rfl (congrArg Host.Outcome.next (hfire _ rfl)))⟩

end

/-! ### An EDGE (R118) -/

/-- The clock just driven low by the device, with `d` on the data line and the edge latched. -/
def lowEdge (d : Bool) (s : State) : State :=
  { s with lines := { hclk := true, hdat := true, dclk := false, ddat := d }, edge := { rxie := true, rxif := true } }

theorem reaches_edge {d x : Bool} (hedge : s.edge = { rxie := true, rxif := false })
    (hlines : s.lines = { hclk := true, hdat := true, dclk := true, ddat := x }) (hten : s.ir.ten = false) :
    ∃ o, Reaches 86 (withSched (edgeEvents d ++ l) s) (withSched l { rxService (lowEdge d s) with
      now := s.now + 80
      lines := { hclk := true, hdat := true, dclk := true, ddat := d }
      osc := o }) := by
  have hlow : devDrive (some false) none (devDrive none (some d) s) = lowEdge d s := by
    rw [devDrive_dat_eq, devDrive_pull_eq, lowEdge, hlines, hedge]
    rfl
  have hdat := reaches_devDrive hp (.devDrive (some false) none :: (waitEvents Config.halfPeriod ++
    .devDrive (some true) none :: (waitEvents Config.halfPeriod ++ l))) none (some d)
  have hclk := reaches_devDrive (s := devDrive none (some d) s) hp (waitEvents Config.halfPeriod ++
    .devDrive (some true) none :: (waitEvents Config.halfPeriod ++ l)) (some false) none
  rw [hlow] at hclk
  have hservice : Reaches 1 (withSched (waitEvents Config.halfPeriod ++ .devDrive (some true) none ::
      (waitEvents Config.halfPeriod ++ l)) (lowEdge d s)) _ := reaches_service (s := lowEdge d s) hp _ rfl
  obtain ⟨o₁, hwait₁⟩ := reaches_wait (s := rxService (lowEdge d s)) hp
    (.devDrive (some true) none :: (waitEvents Config.halfPeriod ++ l)) rfl hten
  have hhigh := reaches_devDrive (s := { rxService (lowEdge d s) with now := s.now + 40, osc := o₁ }) hp
    (waitEvents Config.halfPeriod ++ l) (some true) none
  rw [devDrive_release_eq] at hhigh
  obtain ⟨o₂, hwait₂⟩ := reaches_wait (s := { rxService (lowEdge d s) with
    now := s.now + 40
    lines := { hclk := true, hdat := true, dclk := true, ddat := d }
    osc := o₁ }) hp l rfl hten
  have hnow : s.now + 40 + 40 = s.now + 80 := by rw [BitVec.add_assoc]; rfl
  refine ⟨o₂, ?_⟩
  rw [← hnow]
  exact hdat.trans (hclk.trans (hservice.trans (hwait₁.trans (hhigh.trans hwait₂))))

end

/-! ### A FRAME (R100, R118) -/

/-! A service whose sample is number `n + 1` of a frame, with the counts of R8 (R152, R156). -/

section
variable {s : State} {n : Nat} (hn : n < 11) (hlit : s.cfg.lit = .d00) (hcount : countBefore s = BitVec.ofNat 4 n)
include hn hlit hcount

/-- The eleventh sample ends the frame. -/
theorem rxService_rx_of_count : (rxService s).rx =
    { acc := shiftIn s.rx.acc (dataLine s.lines), bitcnt := BitVec.ofNat 4 ((n + 1) % 11), last := s.now } := by
  have hbitcnt : (rxService s).rx.bitcnt = BitVec.ofNat 4 ((n + 1) % 11) := by
    rw [rxService_bitcnt, hcount, hlit]
    interval_cases n <;> rfl
  rw [← hbitcnt]
  rfl

/-- The ninth sample completes the byte. -/
theorem complete_of_count : decide (countBefore s + 1 = s.cfg.lit.rxPushAt) = decide (n = 8) := by
  rw [hcount, hlit]
  interval_cases n <;> rfl

variable (hroom : n = 8 → ringFull s.cfg s.ring = false)
include hroom

theorem rxService_ring_of_count : (rxService s).ring =
    if n = 8 then ringPush s.cfg (shiftIn s.rx.acc (dataLine s.lines)) s.ring else s.ring := by
  rw [rxService_ring, complete_of_count hn hlit hcount]
  by_cases h8 : n = 8
  · simp [h8, hroom h8]
  · simp [h8]

/-- Nothing is discarded and nothing dropped. -/
theorem rxService_flags_of_count (hsync : rxLate s = true → s.rx.bitcnt = 0) : (rxService s).flags = s.flags := by
  have hrsy : (rxService s).flags.rsy = s.flags.rsy := by
    rw [rxService_rsy]
    cases hlate : rxLate s
    · simp
    · simp [hsync hlate]
  have hovf : (rxService s).flags.ovf = s.flags.ovf := by
    rw [rxService_ovf, complete_of_count hn hlit hcount]
    by_cases h8 : n = 8
    · simp [hroom h8]
    · simp [h8]
  calc (rxService s).flags
      = { s.flags with rsy := (rxService s).flags.rsy, ovf := (rxService s).flags.ovf } := rfl
    _ = s.flags := by rw [hrsy, hovf]

end

/-- Nine samples that carry a frame's slots shift the byte into `ACC`, whatever it held (R154). -/
theorem foldl_shiftIn_frameSlots (acc b : Byte) : ((frameSlots b).take 9).foldl shiftIn acc = b := by
  apply BitVec.eq_of_getLsbD_eq
  intro i hi
  interval_cases i <;> simp [frameSlots, shiftIn]

/-- An idle bus with the receive interrupt enabled, the timer off and room for a byte. -/
structure ReadyForFrame (s : State) : Prop where
  wf : s.cfg.wf = true
  lit : s.cfg.lit = .d00
  edge : s.edge = { rxie := true, rxif := false }
  lines : s.lines = { hclk := true, hdat := true, dclk := true, ddat := true }
  bitcnt : s.rx.bitcnt = 0
  ten : s.ir.ten = false
  room : ringFull s.cfg s.ring = false

/-- After `n` slots of the frame of `b` from `s`: the last level `d`, the last sample at `last`, the oscillator `o`. -/
def afterSlots (b : Byte) (n : Nat) (d : Bool) (last : Micros) (o : Oscillator) (s : State) : State :=
  { s with
    now := s.now + BitVec.ofNat 32 (80 * n)
    lines := { hclk := true, hdat := true, dclk := true, ddat := d }
    rx := { acc := ((frameSlots b).take n).foldl shiftIn s.rx.acc, bitcnt := BitVec.ofNat 4 (n % 11), last := last }
    ring := if n < 9 then s.ring else ringPush s.cfg b s.ring
    osc := o }

section
variable {s : State} (b : Byte) {n : Nat} (d : Bool) (last : Micros) (o : Oscillator)

theorem afterSlots_cfg : (afterSlots b n d last o s).cfg = s.cfg := rfl

theorem afterSlots_ring_of_lt (hn : n < 9) : (afterSlots b n d last o s).ring = s.ring := if_pos hn

theorem afterSlots_ring_of_le (hn : 9 ≤ n) : (afterSlots b n d last o s).ring = ringPush s.cfg b s.ring :=
  if_neg (Nat.not_lt.2 hn)

end

/-- A slot takes 80 us. -/
theorem now_after_slot (now : Micros) (n : Nat) :
    now + BitVec.ofNat 32 (80 * n) + 80 = now + BitVec.ofNat 32 (80 * (n + 1)) := by
  rw [Nat.mul_succ, BitVec.ofNat_add, BitVec.add_assoc]
  rfl

section
variable {s : State} (h : ReadyForFrame s) (b : Byte)
include h

/-- Before the ninth sample nothing is pushed. -/
theorem room_afterSlots {n : Nat} (x : Bool) (last : Micros) (o : Oscillator) (h8 : n = 8) :
    ringFull s.cfg (afterSlots b n x last o s).ring = false := by
  rw [afterSlots_ring_of_lt _ _ _ _ (by omega)]
  exact h.room

section
variable {n : Nat} (hn : n < 11) {d x : Bool} {last : Micros} {o : Oscillator}
  (hlast : n ≠ 0 → s.now + BitVec.ofNat 32 (80 * n) = last + 80)
include hlast

/-- The edges of a frame are 80 us apart, well below `T_RESYNC`. -/
theorem gap_le_of_afterSlots (h0 : n ≠ 0) : (lowEdge d (afterSlots b n x last o s)).now -
    (lowEdge d (afterSlots b n x last o s)).rx.last ≤ (lowEdge d (afterSlots b n x last o s)).cfg.lit.tResync := by
  change s.now + BitVec.ofNat 32 (80 * n) - last ≤ s.cfg.lit.tResync
  rw [hlast h0, BitVec.add_comm, BitVec.add_sub_cancel, h.lit]
  decide

/-- Only the first edge may come late, and it finds no partial frame to discard. -/
theorem bitcnt_of_rxLate_afterSlots (hlate : rxLate (lowEdge d (afterSlots b n x last o s)) = true) :
    (lowEdge d (afterSlots b n x last o s)).rx.bitcnt = 0 := by
  by_cases h0 : n = 0
  · subst h0
    rfl
  · exact absurd (of_decide_eq_true hlate) (BitVec.not_lt.2 (gap_le_of_afterSlots h b hlast h0))

include hn

theorem countBefore_afterSlots : countBefore (lowEdge d (afterSlots b n x last o s)) = BitVec.ofNat 4 n := by
  by_cases h0 : n = 0
  · subst h0
    exact ite_self _
  · exact (countBefore_of_gap_le (gap_le_of_afterSlots h b hlast h0)).trans
      (congrArg (BitVec.ofNat 4) (Nat.mod_eq_of_lt hn))

/-! The service of slot `n`, which carries `d`, takes the frame one slot further. -/

variable (hslot : (frameSlots b).take (n + 1) = (frameSlots b).take n ++ [d])
include hslot

omit h hn hlast in
theorem shiftIn_afterSlots (acc : Byte) :
    shiftIn (((frameSlots b).take n).foldl shiftIn acc) d = ((frameSlots b).take (n + 1)).foldl shiftIn acc := by
  rw [hslot, List.foldl_append]
  rfl

theorem rxService_ring_afterSlots (last' : Micros) (o' : Oscillator) :
    (rxService (lowEdge d (afterSlots b n x last o s))).ring = (afterSlots b (n + 1) d last' o' s).ring := by
  have hpush := rxService_ring_of_count (s := lowEdge d (afterSlots b n x last o s)) hn h.lit
    (countBefore_afterSlots h b hn hlast) (room_afterSlots h b x last o)
  obtain hbefore | h8 | hafter := Nat.lt_trichotomy n 8
  · rw [hpush, if_neg (by omega), afterSlots_ring_of_lt _ _ _ _ (by omega : n + 1 < 9)]
    exact afterSlots_ring_of_lt b x last o (by omega)
  · have hbyte : shiftIn (((frameSlots b).take n).foldl shiftIn s.rx.acc) d = b := by
      rw [shiftIn_afterSlots b hslot, h8, foldl_shiftIn_frameSlots]
    rw [hpush, if_pos h8, afterSlots_ring_of_le _ _ _ _ (by omega : 9 ≤ n + 1)]
    exact congrArg₂ (ringPush s.cfg) hbyte (afterSlots_ring_of_lt b x last o (by omega))
  · rw [hpush, if_neg (by omega), afterSlots_ring_of_le _ _ _ _ (by omega : 9 ≤ n + 1)]
    exact afterSlots_ring_of_le b x last o (by omega)

theorem rxService_afterSlots (o' : Oscillator) :
    { rxService (lowEdge d (afterSlots b n x last o s)) with
      now := s.now + BitVec.ofNat 32 (80 * n) + 80
      lines := { hclk := true, hdat := true, dclk := true, ddat := d }
      osc := o' } =
    afterSlots b (n + 1) d (s.now + BitVec.ofNat 32 (80 * n)) o' s := by
  have hlit : (lowEdge d (afterSlots b n x last o s)).cfg.lit = .d00 := h.lit
  have hcount := countBefore_afterSlots (d := d) (x := x) (o := o) h b hn hlast
  have hring := rxService_ring_afterSlots (x := x) (o := o) h b hn hlast hslot (s.now + BitVec.ofNat 32 (80 * n)) o'
  have hrx : (rxService (lowEdge d (afterSlots b n x last o s))).rx =
      (afterSlots b (n + 1) d (s.now + BitVec.ofNat 32 (80 * n)) o' s).rx :=
    (rxService_rx_of_count hn hlit hcount).trans (congrArg (RxEngine.mk · _ _) (shiftIn_afterSlots b hslot s.rx.acc))
  have hflags := rxService_flags_of_count hn hlit hcount (room_afterSlots h b x last o)
    (bitcnt_of_rxLate_afterSlots h b hlast)
  calc _ = { afterSlots b (n + 1) d (s.now + BitVec.ofNat 32 (80 * n)) o' s with
          now := s.now + BitVec.ofNat 32 (80 * n) + 80
          edge := { rxie := true, rxif := false }
          rx := (rxService (lowEdge d (afterSlots b n x last o s))).rx
          ring := (rxService (lowEdge d (afterSlots b n x last o s))).ring
          flags := (rxService (lowEdge d (afterSlots b n x last o s))).flags } := rfl
    _ = _ := by
      rw [hrx, hring, hflags, now_after_slot, ← h.edge]
      rfl

end

theorem reaches_slots (l : List Event) {n : Nat} (hn : n ≤ (frameSlots b).length) : ∃ d last o,
    (n ≠ 0 → s.now + BitVec.ofNat 32 (80 * n) = last + 80) ∧
      Reaches (86 * n) (withSched ((frameSlots b).flatMap edgeEvents ++ l) s)
        (withSched (((frameSlots b).drop n).flatMap edgeEvents ++ l) (afterSlots b n d last o s)) := by
  induction n with
  | zero =>
    refine ⟨true, s.rx.last, s.osc, fun h0 => absurd rfl h0, congrArg Host.Outcome.next ?_⟩
    have hstart : s = afterSlots b 0 true s.rx.last s.osc s := by
      have hcnt : BitVec.ofNat 4 (0 % 11) = s.rx.bitcnt := h.bitcnt.symm
      rw [afterSlots, ← h.lines, hcnt, Nat.mul_zero, BitVec.add_zero]
      rfl
    rw [List.drop_zero, ← hstart]
  | succ n ih =>
    obtain ⟨d, last, o, hlast, hrun⟩ := ih (by omega)
    obtain ⟨o', hedge⟩ := reaches_edge (s := afterSlots b n d last o s) (d := (frameSlots b)[n]) h.wf
      (((frameSlots b).drop (n + 1)).flatMap edgeEvents ++ l) h.edge rfl h.ten
    refine ⟨(frameSlots b)[n], s.now + BitVec.ofNat 32 (80 * n), o', fun _ => (now_after_slot s.now n).symm, ?_⟩
    rw [← rxService_afterSlots h b hn hlast (List.take_append_getElem hn).symm o']
    rw [List.drop_eq_getElem_cons hn, List.flatMap_cons, List.append_assoc] at hrun
    exact hrun.trans hedge

end

/-- Settles O30: eleven slots and the release of the data line. -/
theorem theScriptOfAFrameDeliversItsByte : Obligations.TheScriptOfAFrameDeliversItsByte := by
  intro s b rest hwf hlit hsched hedge hlines hbitcnt hten hroom
  have h : ReadyForFrame s := ⟨hwf, hlit, hedge, hlines, hbitcnt, hten, hroom⟩
  obtain ⟨d, last, o, -, hslots⟩ :=
    reaches_slots h b (.devDrive none (some true) :: rest) (n := 11) (Nat.le_refl 11)
  have hrelease := reaches_devDrive (s := afterSlots b 11 d last o s) (by rw [afterSlots_cfg]; exact hwf) rest
    none (some true)
  rw [devDrive_dat_eq] at hrelease
  have hstart : withSched ((frameSlots b).flatMap edgeEvents ++ .devDrive none (some true) :: rest) s = s := by
    rw [withSched, ← List.singleton_append, ← List.append_assoc, ← frameEvents, ← hsched]
  rw [hstart] at hslots
  refine ⟨_, hslots.trans hrelease, ?_⟩
  simp [withSched, afterSlots, hlines]

end Sys2Proof.Machine

/-! SUPPORT. The edge detector of the clock line under an assignment of the drivers (R142, R143, R144). -/

namespace Sys2Proof.Machine

/-- A falling edge of the clock line sets the latch, whatever it held (R143). -/
theorem setLines_of_fall {a b c d : Option Bool} {s : State} (hhigh : clkLine s.lines = true)
    (hlow : clkLine (driveLines a b c d s.lines) = false) :
    setLines a b c d s = { s with lines := driveLines a b c d s.lines, edge.rxif := true } := by
  simp only [setLines, hhigh, hlow, Bool.not_false, Bool.and_self, Bool.or_true]

/-- Without a falling edge of the clock line the latch is kept (R143). -/
theorem setLines_of_not_fall {a b c d : Option Bool} {s : State}
    (h : ¬ (clkLine s.lines = true ∧ clkLine (driveLines a b c d s.lines) = false)) :
    setLines a b c d s = { s with lines := driveLines a b c d s.lines } := by
  have hfall : (clkLine s.lines && !clkLine (driveLines a b c d s.lines)) = false := by
    rwa [← Bool.not_eq_true, Bool.and_eq_true, Bool.not_eq_true']
  simp only [setLines, hfall, Bool.or_false]

/-- The device makes a falling edge where the clock was high and it now drives the clock low (R142, R144). -/
theorem fall_of_device_drive (c d : Option Bool) (l : Lines) :
    (clkLine l && !clkLine (driveLines none none c d l)) = (l.hclk && l.dclk && !(c.getD l.dclk)) := by
  cases hclk : l.hclk <;> simp [clkLine, driveLines, hclk]

/-- Settles O20: the drivers after the assignment are those of `driveLines`, with a falling edge of `CLK` or without. -/
theorem fallingClockEdgesAreLatched : Obligations.FallingClockEdgesAreLatched :=
  fun a b c d s => ⟨driveLines a b c d s.lines, rfl, rfl, rfl, rfl, setLines_of_fall, setLines_of_not_fall⟩

/-- Settles O21: DEV_DRIVE assigns the device's drivers, and the latch takes the edge of `fall_of_device_drive`. -/
theorem devDriveSetsTheDeviceDrivers : Obligations.DevDriveSetsTheDeviceDrivers := by
  intro c d s
  rw [← fall_of_device_drive c d s.lines]
  rfl

end Sys2Proof.Machine

/-! SUPPORT. The host commands on the ring and on the receive enable, and RX_SERVICE as one event (R152, R156, R157,
R160 to R164). -/

namespace Sys2Proof.Machine

/-! ### RXPOP, RXCNT and RXEN -/

theorem rxpop_of_ne {s : State} (h : s.ring.head ≠ s.ring.tail) :
    rxpop s = respond (respByte (ringFront s.cfg s.ring)) { s with ring := ringDrop s.cfg s.ring } := by
  obtain ⟨heq, -⟩ | ⟨-, hpop⟩ := rxpop_cases s
  · exact absurd heq h
  · exact hpop

/-- Settles O13: the two cases of RXPOP. -/
theorem rxpopAnswersTheSlotAtHead : Obligations.RxpopAnswersTheSlotAtHead := by
  refine ⟨fun w hop => by simp [decode, hop], fun s => ⟨fun heq => ?_, fun hne => ?_⟩⟩
  · obtain ⟨-, hpop⟩ | ⟨hne, -⟩ := rxpop_cases s
    · exact congrArg _ hpop
    · exact absurd heq hne
  · exact congrArg _ (rxpop_of_ne hne)

/-- A masked index is at most `CAP - 1`, whatever the parameters. -/
theorem and_ringMask_toNat_le (p : Params) (i : BitVec 16) : (i &&& ringMask p).toNat ≤ ringCap p - 1 := by
  rw [BitVec.toNat_and, ringMask, BitVec.toNat_ofNat]
  exact Nat.and_le_right.trans (Nat.mod_le _ _)

/-- Settles O14: the count is a masked index. -/
theorem rxcntAnswersACountBelowCapacity : Obligations.RxcntAnswersACountBelowCapacity :=
  ⟨fun w hop => by simp [decode, hop], fun s => ⟨rfl, and_ringMask_toNat_le s.cfg _⟩⟩

/-- Settles O15: the three cases of RXEN are busy, enabling and disabling. -/
theorem rxenEnablesWithAClearLatch : Obligations.RxenEnablesWithAClearLatch := by
  refine ⟨fun w hop => by simp [decode, hop, argEn_argField], fun en s => ⟨fun hbusy => ?_, ?_, ?_⟩⟩
  · exact if_pos (decide_eq_true hbusy)
  all_goals
    intro hidle hen
    have hfree : writerBusy s.wr = false := decide_eq_false fun hbusy => hbusy hidle
    simp [exec, execRxen, hfree, hen, rearm, respond, respYes]

/-- A pop on a ring whose count is not 0 answers a valid byte and leaves a ring with a count lower by one (R160). -/
theorem rxpop_of_ringCount_pos {s : State} (hp : s.cfg.wf = true) (hr : RingWf s.cfg s.ring)
    (hpos : 0 < (ringCount s.cfg s.ring).toNat) : respValid (rxpop s).resp = true ∧
      RingWf s.cfg (rxpop s).ring ∧ (ringCount s.cfg (rxpop s).ring).toNat + 1 = (ringCount s.cfg s.ring).toNat := by
  have hne : s.ring.head ≠ s.ring.tail := fun heq => by
    have := (head_eq_tail_iff hp hr).1 heq
    omega
  rw [rxpop_of_ne hne]
  exact ⟨respValid_respByte _, hr.drop, ringCount_drop hp hr hne⟩

/-- Settles O29: the first pop is valid and leaves a count lower by one, which is enough for the others. -/
theorem aCountedByteCanBePopped : Obligations.ACountedByteCanBePopped := by
  intro s k hp hring hk
  have hr := (ringInv_iff s).1 hring
  clear hring
  induction k generalizing s with
  | zero =>
    obtain ⟨hvalid, -⟩ := rxpop_of_ringCount_pos hp hr hk
    exact hvalid
  | succ k ih =>
    obtain ⟨-, hr', hcount⟩ := rxpop_of_ringCount_pos hp hr (by omega)
    have hcfg := rxpop_cfg s
    rw [Function.iterate_succ_apply]
    refine ih (rxpop s) ?_ ?_ ?_
    · rwa [hcfg]
    · rw [hcfg]
      omega
    · rwa [hcfg]

/-! ### RX_SERVICE -/

/-- Settles O22: each register is the one that the lemmas of RX_SERVICE name, with `countBefore` for `c`. -/
theorem rxServiceSamplesShiftsAndCounts : Obligations.RxServiceSamplesShiftsAndCounts := by
  refine ⟨⟨rfl, rfl, rfl⟩, fun s => ⟨fun hoff => congrArg _ (whenEnabled_false hoff), fun hon => ?_⟩⟩
  refine ⟨rxLate s, ringFull s.cfg s.ring, countBefore s, shiftIn s.rx.acc (dataLine s.lines), rfl, rfl, rfl, rfl,
    congrArg _ ((whenEnabled_true hon).trans ?_)⟩
  have hring : (rxService s).ring =
      if countBefore s + 1 = s.cfg.lit.rxPushAt ∧ ringFull s.cfg s.ring = false then
        ringPush s.cfg (shiftIn s.rx.acc (dataLine s.lines)) s.ring
      else s.ring := by simp [rxService_ring]
  calc rxService s
      = { s with
          edge := (rxService s).edge, rx := (rxService s).rx, ring := (rxService s).ring
          flags := (rxService s).flags } := rfl
    _ = _ := by
      rw [hring]
      rfl

end Sys2Proof.Machine

/-! SUPPORT. A PS/2 frame as a list of samples, whatever its levels and gaps (R151 to R157, R165, R166). -/

namespace Sys2Proof.Machine

/-! ### The byte in the shift register (R154) -/

/-- Nine samples leave the last eight of them in `ACC`, the oldest at bit 0. -/
theorem foldl_shiftIn_ofFn_getLsbD (acc : Byte) (d : Fin 9 → Bool) (i : Fin 8) :
    ((List.ofFn d).foldl shiftIn acc).getLsbD i.val = d i.succ := by
  fin_cases i <;> simp [shiftIn]

/-- The slots of a frame that carries `b`, with any levels in slots 1, 10 and 11 (R100, R159). -/
def slotsOf (start : Bool) (b : Byte) (par stop : Bool) : List Bool :=
  start :: (List.range 8).map (fun k => b.getLsbD k) ++ [par, stop]

theorem slotsOf_length (start : Bool) (b : Byte) (par stop : Bool) : (slotsOf start b par stop).length = 11 := rfl

theorem foldl_shiftIn_slotsOf (acc : Byte) (start : Bool) (b : Byte) (par stop : Bool) :
    ((slotsOf start b par stop).take 9).foldl shiftIn acc = b := by
  have hslots : (slotsOf start b par stop).take 9 =
      List.ofFn (Fin.cons start fun k : Fin 8 => b.getLsbD k : Fin 9 → Bool) := rfl
  refine BitVec.eq_of_getLsbD_eq fun i hi => ?_
  rw [hslots, foldl_shiftIn_ofFn_getLsbD acc _ ⟨i, hi⟩, Fin.cons_succ]

/-! ### One sample -/

/-- The receive engine takes part in every edge of the device, with the counts of R8. -/
structure Listening (s : State) : Prop where
  pushAt : s.cfg.lit.rxPushAt = 9
  frameLen : s.cfg.lit.rxFrameLen = 11
  rxie : s.edge.rxie = true
  hclk : s.lines.hclk = true
  hdat : s.lines.hdat = true

/-- The next edge of the device, `gap` microseconds later, latched and not yet serviced. -/
def edgeAfter (d : Bool) (gap : Micros) (s : State) : State := lowEdge d { s with now := s.now + gap }

@[simp] theorem edgeAfter_cfg (d : Bool) (gap : Micros) (s : State) : (edgeAfter d gap s).cfg = s.cfg := rfl
@[simp] theorem edgeAfter_now (d : Bool) (gap : Micros) (s : State) : (edgeAfter d gap s).now = s.now + gap := rfl
@[simp] theorem edgeAfter_rx (d : Bool) (gap : Micros) (s : State) : (edgeAfter d gap s).rx = s.rx := rfl
@[simp] theorem edgeAfter_ring (d : Bool) (gap : Micros) (s : State) : (edgeAfter d gap s).ring = s.ring := rfl
@[simp] theorem edgeAfter_flags (d : Bool) (gap : Micros) (s : State) : (edgeAfter d gap s).flags = s.flags := rfl
@[simp] theorem dataLine_edgeAfter (d : Bool) (gap : Micros) (s : State) : dataLine (edgeAfter d gap s).lines = d := rfl

/-- The edge of a sample is latched and serviced at once (R11, R151). -/
theorem sampleAfter_eq {s : State} (h : Listening s) (d : Bool) (gap : Micros) :
    sampleAfter d gap s = rxService (edgeAfter d gap s) := by
  have hlow : devDrive (some false) (some d) (devDrive (some true) none { s with now := s.now + gap }) =
      edgeAfter d gap s := by
    rw [devDrive_release_eq]
    simp [devDrive, setLines, driveLines, clkLine, edgeAfter, lowEdge, h.hclk, h.hdat, h.rxie]
  rw [sampleAfter, hlow]
  exact whenEnabled_true rfl

theorem sampleAfter_listening {s : State} (h : Listening s) (d : Bool) (gap : Micros) :
    Listening (sampleAfter d gap s) := by
  rw [sampleAfter_eq h]
  exact ⟨h.pushAt, h.frameLen, rfl, rfl, rfl⟩

/-- `s` with a frame in progress discarded (R153). -/
def discardPartial (s : State) : State :=
  { s with rx.bitcnt := 0, flags.rsy := s.flags.rsy || decide (s.rx.bitcnt ≠ 0) }

theorem discardPartial_listening {s : State} (h : Listening s) : Listening (discardPartial s) :=
  ⟨h.pushAt, h.frameLen, h.rxie, h.hclk, h.hdat⟩

/-- A late service is the service of the state with the partial frame discarded (R153). -/
theorem rxService_of_late {s : State} (h : rxLate s = true) : rxService s = rxService (discardPartial s) := by
  have hwatchdog : rxWatchdog { s with edge.rxif := false } =
      rxWatchdog { discardPartial s with edge.rxif := false } := by
    simp [rxWatchdog, rxLate, discardPartial, of_decide_eq_true h]
  rw [rxService, hwatchdog]
  rfl

theorem sampleAfter_of_late {s : State} (h : Listening s) (d : Bool) {gap : Micros}
    (hlate : s.cfg.lit.tResync < s.now + gap - s.rx.last) :
    sampleAfter d gap s = sampleAfter d gap (discardPartial s) := by
  rw [sampleAfter_eq h, sampleAfter_eq (discardPartial_listening h)]
  exact rxService_of_late (s := edgeAfter d gap s) (decide_eq_true hlate)

/-! ### The samples of a frame -/

/-- From `s`, at the start of a frame, the samples `l` lead to `t`: its receive registers, ring and flags. -/
structure Receiving (s t : State) (l : List Bool) : Prop where
  listening : Listening t
  cfg : t.cfg = s.cfg
  last : l ≠ [] → t.rx.last = t.now
  bitcnt : t.rx.bitcnt = BitVec.ofNat 4 (l.length % 11)
  acc : t.rx.acc = l.foldl shiftIn s.rx.acc
  ring : t.ring = if 9 ≤ l.length ∧ ringFull s.cfg s.ring = false then
      ringPush s.cfg ((l.take 9).foldl shiftIn s.rx.acc) s.ring else s.ring
  flags : t.flags = { s.flags with ovf := s.flags.ovf || (decide (9 ≤ l.length) && ringFull s.cfg s.ring) }

theorem Receiving.start {s : State} (h : Listening s) (hcnt : s.rx.bitcnt = 0) : Receiving s s [] where
  listening := h
  cfg := rfl
  last := fun hne => absurd rfl hne
  bitcnt := hcnt
  acc := rfl
  ring := rfl
  flags := by simp

section
variable {s t : State} {l : List Bool} (h : Receiving s t l) (hl : l.length < 11) (d : Bool) {gap : Micros}
  (hgap : l ≠ [] → gap ≤ s.cfg.lit.tResync)
include h

/-- Before the ninth sample the ring is that of the start. -/
theorem Receiving.ring_of_lt (h9 : l.length < 9) : t.ring = s.ring := by
  rw [h.ring, if_neg (by omega)]

include hgap

/-- Only the first edge of a frame may come late. -/
theorem Receiving.gap_le (hne : l ≠ []) :
    (edgeAfter d gap t).now - (edgeAfter d gap t).rx.last ≤ (edgeAfter d gap t).cfg.lit.tResync := by
  rw [edgeAfter_now, edgeAfter_rx, edgeAfter_cfg, h.last hne, h.cfg, BitVec.add_comm, BitVec.add_sub_cancel]
  exact hgap hne

/-- A late edge finds no partial frame to discard. -/
theorem Receiving.rsy_kept : (rxService (edgeAfter d gap t)).flags.rsy = t.flags.rsy := by
  rw [rxService_rsy, edgeAfter_rx, edgeAfter_flags]
  by_cases hne : l = []
  · have hcnt : t.rx.bitcnt = 0 := by rw [h.bitcnt, hne]; rfl
    simp [hcnt]
  · have hlate : rxLate (edgeAfter d gap t) = false := decide_eq_false (BitVec.not_lt.2 (h.gap_le d hgap hne))
    simp [hlate]

include hl

theorem Receiving.countBefore_eq : countBefore (edgeAfter d gap t) = BitVec.ofNat 4 l.length := by
  have hcnt : t.rx.bitcnt = BitVec.ofNat 4 l.length := by rw [h.bitcnt, Nat.mod_eq_of_lt hl]
  by_cases hne : l = []
  · rw [hne] at hcnt ⊢
    rw [countBefore, edgeAfter_rx, hcnt]
    exact ite_self _
  · exact (countBefore_of_gap_le (h.gap_le d hgap hne)).trans hcnt

/-- The ninth sample, and no other, completes the byte (R156). -/
theorem Receiving.complete_eq :
    decide (countBefore (edgeAfter d gap t) + 1 = (edgeAfter d gap t).cfg.lit.rxPushAt) = decide (l.length = 8) := by
  rw [h.countBefore_eq hl d hgap, edgeAfter_cfg, h.listening.pushAt]
  generalize l.length = n at hl
  interval_cases n <;> rfl

theorem Receiving.bitcnt_snoc :
    (rxService (edgeAfter d gap t)).rx.bitcnt = BitVec.ofNat 4 ((l ++ [d]).length % 11) := by
  rw [rxService_bitcnt, h.countBefore_eq hl d hgap, edgeAfter_cfg, h.listening.frameLen, List.length_append,
    List.length_singleton]
  generalize l.length = n at hl
  interval_cases n <;> rfl

theorem Receiving.ring_snoc : (rxService (edgeAfter d gap t)).ring =
    if 9 ≤ (l ++ [d]).length ∧ ringFull s.cfg s.ring = false then
      ringPush s.cfg (((l ++ [d]).take 9).foldl shiftIn s.rx.acc) s.ring else s.ring := by
  rw [rxService_ring, h.complete_eq hl d hgap, edgeAfter_cfg, edgeAfter_ring, edgeAfter_rx, dataLine_edgeAfter, h.cfg,
    h.acc, List.length_append, List.length_singleton]
  obtain hbefore | h8 | hafter := Nat.lt_trichotomy l.length 8
  · rw [h.ring_of_lt (by omega)]
    simp [show l.length ≠ 8 by omega, show ¬ 9 ≤ l.length + 1 by omega]
  · have htake : (l ++ [d]).take 9 = l ++ [d] := List.take_of_length_le (by simp [h8])
    rw [h.ring_of_lt (by omega), htake, List.foldl_append]
    simp [h8]
  · rw [h.ring, List.take_append_of_le_length (by omega)]
    simp [show l.length ≠ 8 by omega, show 9 ≤ l.length by omega, show 9 ≤ l.length + 1 by omega]

theorem Receiving.ovf_snoc : (rxService (edgeAfter d gap t)).flags.ovf =
    (s.flags.ovf || (decide (9 ≤ (l ++ [d]).length) && ringFull s.cfg s.ring)) := by
  rw [rxService_ovf, h.complete_eq hl d hgap, edgeAfter_cfg, edgeAfter_ring, edgeAfter_flags, h.cfg, h.flags,
    List.length_append, List.length_singleton]
  obtain hbefore | h8 | hafter := Nat.lt_trichotomy l.length 8
  · simp [show l.length ≠ 8 by omega, show ¬ 9 ≤ l.length by omega, show ¬ 9 ≤ l.length + 1 by omega]
  · rw [h.ring_of_lt (by omega)]
    simp [h8]
  · simp [show l.length ≠ 8 by omega, show 9 ≤ l.length by omega, show 9 ≤ l.length + 1 by omega]

/-- One more sample of the frame. -/
theorem Receiving.sample : Receiving s (sampleAfter d gap t) (l ++ [d]) := by
  have hlistening := sampleAfter_listening h.listening d gap
  rw [sampleAfter_eq h.listening] at hlistening ⊢
  have hflags : (rxService (edgeAfter d gap t)).flags = { t.flags with
      rsy := (rxService (edgeAfter d gap t)).flags.rsy, ovf := (rxService (edgeAfter d gap t)).flags.ovf } := rfl
  refine ⟨hlistening, h.cfg, fun _ => rfl, h.bitcnt_snoc hl d hgap, ?_, h.ring_snoc hl d hgap, ?_⟩
  · rw [rxService_acc, edgeAfter_rx, dataLine_edgeAfter, h.acc, List.foldl_append]
    rfl
  · rw [hflags, h.rsy_kept d hgap, h.ovf_snoc hl d hgap, h.flags]

end

/-- The samples that follow in time. -/
theorem Receiving.append_samples {s t : State} {l : List Bool} (h : Receiving s t l) {rest : List (Bool × Micros)}
    (hgap : ∀ x ∈ rest, x.2 ≤ s.cfg.lit.tResync) (hlen : l.length + rest.length ≤ 11) :
    Receiving s (samples rest t) (l ++ rest.map Prod.fst) := by
  induction rest generalizing t l with
  | nil => rwa [List.map_nil, List.append_nil]
  | cons x rest ih =>
    rw [List.length_cons] at hlen
    have hsample := h.sample (by omega) x.1 fun _ => hgap x List.mem_cons_self
    rw [List.map_cons, List.append_cons]
    refine ih hsample (fun y hy => hgap y (List.mem_cons_of_mem _ hy)) ?_
    rw [List.length_append, List.length_singleton]
    omega

/-- At most eleven samples of a frame, the first one at any distance. -/
theorem receiving_samples {s : State} (h : Listening s) (hcnt : s.rx.bitcnt = 0) {x : Bool × Micros}
    {rest : List (Bool × Micros)} (hgap : ∀ y ∈ rest, y.2 ≤ s.cfg.lit.tResync) (hlen : rest.length ≤ 10) :
    Receiving s (samples (x :: rest) s) ((x :: rest).map Prod.fst) :=
  ((Receiving.start h hcnt).sample (by decide) x.1 fun hne => absurd rfl hne).append_samples hgap
    (by rw [List.nil_append, List.length_singleton]; omega)

/-- The eleven samples of a frame that carries `b`. -/
theorem receiving_frame {s : State} (h : Listening s) (hcnt : s.rx.bitcnt = 0) (start : Bool) (b : Byte)
    (par stop : Bool) (g0 : Micros) {g : List Micros} (hlen : g.length = 10)
    (hgap : ∀ x ∈ g, x ≤ s.cfg.lit.tResync) :
    Receiving s (samples ((slotsOf start b par stop).zip (g0 :: g)) s) (slotsOf start b par stop) := by
  have hreceiving : Receiving s _ (((slotsOf start b par stop).zip (g0 :: g)).map Prod.fst) :=
    receiving_samples h hcnt (x := (start, g0)) (rest := (slotsOf start b par stop).tail.zip g)
      (fun y hy => hgap _ (List.of_mem_zip hy).2) (by rw [List.length_zip, hlen]; exact Nat.min_le_right _ _)
  rwa [List.map_fst_zip (by rw [slotsOf_length, List.length_cons, hlen])] at hreceiving

section
variable {s t : State} {start : Bool} {b : Byte} {par stop : Bool} (h : Receiving s t (slotsOf start b par stop))
include h

theorem Receiving.frame_bitcnt : t.rx.bitcnt = 0 := by
  rw [h.bitcnt, slotsOf_length]
  rfl

theorem Receiving.frame_ring : t.ring = if ringFull s.cfg s.ring = false then ringPush s.cfg b s.ring else s.ring := by
  have hring := h.ring
  rw [foldl_shiftIn_slotsOf] at hring
  simpa [slotsOf] using hring

theorem Receiving.frame_flags : t.flags = { s.flags with ovf := s.flags.ovf || ringFull s.cfg s.ring } := h.flags

end

/-! ### The statements about whole frames -/

/-- Settles O24: nine samples from the start of a frame, their byte by `foldl_shiftIn_ofFn_getLsbD`. -/
theorem nineSamplesFormTheByte : Obligations.NineSamplesFormTheByte := by
  intro s d g hpush hlen hrxie hclk hdat hcnt hgap t
  have h : Receiving s t (List.ofFn d) := by
    have hlevels : (List.ofFn fun k => (d k, g k)).map Prod.fst = List.ofFn d := List.map_ofFn
    rw [← hlevels]
    simp only [t, List.ofFn_succ (n := 8)]
    refine receiving_samples ⟨hpush, hlen, hrxie, hclk, hdat⟩ hcnt (fun y hy => ?_) (by simp)
    obtain ⟨i, rfl⟩ := (List.mem_ofFn' _ _).1 hy
    exact hgap i.succ i.val.succ_pos
  have hnine : (List.ofFn d).take 9 = List.ofFn d := List.take_of_length_le (by simp)
  refine ⟨fun i => ?_, fun hroom => ?_⟩
  · rw [h.acc, foldl_shiftIn_ofFn_getLsbD]
  · rw [h.ring, h.acc, hnine]
    simp [hroom]

/-- Settles O25: the frame's byte is pushed, and on a ring with room no flag is raised. -/
theorem everyByteDecodes : Obligations.EveryByteDecodes := by
  intro s b start par stop g hp hpush hlen hring hrxie _ hclk hdat hcnt hroom hg hgap t
  obtain ⟨g0, g, rfl⟩ := List.exists_cons_of_length_eq_add_one hg
  have h : Receiving s t (slotsOf start b par stop) :=
    receiving_frame ⟨hpush, hlen, hrxie, hclk, hdat⟩ hcnt start b par stop g0 (Nat.succ.inj hg) hgap
  refine ⟨?_, h.frame_bitcnt, ?_⟩
  · rw [h.cfg, h.frame_ring, if_pos hroom]
    exact ringEntries_push hp ((ringInv_iff s).1 hring) hroom b
  · rw [h.frame_flags, hroom, Bool.or_false]

/-- Settles O26: the late first edge discards the partial frame, from which the eleven samples are a frame. -/
theorem aFrameAfterAGapDecodes : Obligations.AFrameAfterAGapDecodes := by
  intro s b g hpush hlen hrxie hclk hdat hg hgap g0 hlate t
  have hs : Listening s := ⟨hpush, hlen, hrxie, hclk, hdat⟩
  have h : Receiving (discardPartial s) t (slotsOf false b (parity b) true) := by
    have hdiscard : t = samples ((frameSlots b).zip (g0 :: g)) (discardPartial s) :=
      congrArg (samples ((frameSlots b).tail.zip g)) (sampleAfter_of_late hs false hlate)
    rw [hdiscard]
    exact receiving_frame (discardPartial_listening hs) rfl false b (parity b) true g0 hg hgap
  rw [h.frame_bitcnt, h.frame_flags, h.frame_ring]
  refine ⟨rfl, rfl, fun hroom => ?_, fun hfull => ?_⟩
  · simp [discardPartial, hroom]
  · simp [discardPartial, hfull]

end Sys2Proof.Machine

/-! SUPPORT. The command writer: PS2WR, the timed holds and the polls, a device that does not respond, the polls a
write makes, and what a write keeps of the receive engine (42_ps2_command_writer.md). -/

namespace Sys2Proof.Machine

/-! ### PS2WR (R184) -/

theorem startWrite_eq (byte : Byte) (s : State) : startWrite byte s = { s with
    wr := { s.wr with ws := .req, wi := 0, wbyte := byte, wt0 := s.now }
    flags.wok := false
    lines.hclk := false
    edge := { rxie := false, rxif := s.edge.rxif || (s.lines.hclk && s.lines.dclk) } } := by
  rw [startWrite, setHclk_false_eq]

/-- Settles O16: the two cases of PS2WR are a busy and an idle writer. -/
theorem ps2wrStartsAWriteOrIsRejected : Obligations.Ps2wrStartsAWriteOrIsRejected := by
  refine ⟨fun w hop => by simp [decode, hop, argByte_argField],
    fun byte s => ⟨fun hbusy => ?_, fun hidle => ?_⟩⟩
  · exact if_pos (decide_eq_true hbusy)
  · have hfree : ¬ writerBusy s.wr = true := fun hbusy => of_decide_eq_true hbusy hidle
    rw [exec, execPs2wr, if_neg hfree, startWrite_eq]
    rfl

/-! ### The timed holds (R185, R186) -/

theorem wReqDoneEnabled_iff (s : State) :
    wReqDoneEnabled s = true ↔ s.wr.ws = .req ∧ s.cfg.tClkReq ≤ s.now - s.wr.wt0 := by
  rw [wReqDoneEnabled, Bool.and_eq_true, decide_eq_true_eq, decide_eq_true_eq, elapsed]

theorem wRtsDoneEnabled_iff (s : State) :
    wRtsDoneEnabled s = true ↔ s.wr.ws = .rts ∧ s.cfg.tRts ≤ s.now - s.wr.wt0 := by
  rw [wRtsDoneEnabled, Bool.and_eq_true, decide_eq_true_eq, decide_eq_true_eq, elapsed]

theorem wReqDone_eq (s : State) : wReqDone s = { s with lines.hdat := false, wr.wt0 := s.now, wr.ws := .rts } := by
  rw [wReqDone, setHdat_eq]

theorem wRtsDone_eq (s : State) : wRtsDone s = { s with
    lines.hclk := true, wr.wi := 0, wr.ws := .wl, wr.esc := s.cfg.escBudget } := by
  rw [wRtsDone, setHclk_true_eq]
  rfl

/-- Settles O31: each hold's guard is its state and its bound. -/
theorem timedHoldsEndAtTheirBound : Obligations.TimedHoldsEndAtTheirBound := by
  refine fun s => ⟨fun hws hdue => ?_, fun hws hdue => ?_, fun hno => ?_, fun hno => ?_⟩
  · rw [runEvent, whenEnabled_true ((wReqDoneEnabled_iff s).2 ⟨hws, hdue⟩), wReqDone_eq]
  · rw [runEvent, whenEnabled_true ((wRtsDoneEnabled_iff s).2 ⟨hws, hdue⟩), wRtsDone_eq]
  · rw [← wReqDoneEnabled_iff, Bool.not_eq_true] at hno
    rw [runEvent, whenEnabled_false hno]
  · rw [← wRtsDoneEnabled_iff, Bool.not_eq_true] at hno
    rw [runEvent, whenEnabled_false hno]

/-! ### One poll (R187 to R195) -/

section
variable {s : State}

/-- In its wait state a poll takes place. -/
theorem whenWriter_of_eq {ws : WState} (hws : s.wr.ws = ws) (f : State → State) : whenWriter ws f s = f s :=
  whenEnabled_true (decide_eq_true hws)

theorem failedPoll_of_one_lt (h : 1 < s.wr.esc) : failedPoll s = { s with wr.esc := s.wr.esc - 1 } := by
  obtain ⟨-, heq⟩ | ⟨hlast, -⟩ := failedPoll_cases s
  · exact heq
  · omega

theorem failedPoll_of_eq_one (h : s.wr.esc = 1) : failedPoll s = { s with
    wr.esc := 0, wr.ws := .idle, flags.wto := true, edge := { rxie := true, rxif := false } } := by
  obtain ⟨hleft, -⟩ | ⟨-, heq⟩ := failedPoll_cases s
  · omega
  · exact heq

theorem wPollLow_of_high (h : clkLine s.lines = true) : wPollLow s = failedPoll s := if_pos h

theorem wPollLow_of_low (h : clkLine s.lines = false) : wPollLow s = { s with
    lines.hdat := slotLevel s.wr.wbyte s.wr.wi, wr.ws := .wh, wr.esc := s.cfg.escBudget } := by
  obtain ⟨hhigh, -⟩ | ⟨-, heq⟩ := wPollLow_cases s
  · simp [h] at hhigh
  · exact heq

/-- A slot before the stop slot is followed by the next one. -/
theorem wPollHigh_of_high_next (h : clkLine s.lines = true) {i : Fin 10} (hi : i.val = s.wr.wi.val + 1) :
    wPollHigh s = { s with wr.wi := i, wr.ws := .wl, wr.esc := s.cfg.escBudget } := by
  obtain ⟨-, j, hj, heq⟩ | ⟨-, hlast, -⟩ | ⟨hlow, -⟩ := wPollHigh_cases s
  · obtain rfl : i = j := Fin.ext (hi.trans hj.symm)
    exact heq
  · omega
  · simp [h] at hlow

/-- The stop slot is followed by the wait for the acknowledgement. -/
theorem wPollHigh_of_high_stop (h : clkLine s.lines = true) (hi : s.wr.wi = 9) :
    wPollHigh s = { s with wr.ws := .al, wr.esc := s.cfg.escBudget } := by
  obtain ⟨-, j, hj, -⟩ | ⟨-, -, heq⟩ | ⟨hlow, -⟩ := wPollHigh_cases s
  · omega
  · exact heq
  · simp [h] at hlow

theorem wPollHigh_of_low (h : clkLine s.lines = false) : wPollHigh s = failedPoll s := if_neg (by simp [h])

theorem wPollAckL_of_high (h : dataLine s.lines = true) : wPollAckL s = failedPoll s := if_pos h

theorem wPollAckL_of_low (h : dataLine s.lines = false) : wPollAckL s = enterWait .ah s := if_neg (by simp [h])

theorem wPollAckH_of_high (h : dataLine s.lines = true) : wPollAckH s = finishWrite s := if_pos h

theorem wPollAckH_of_low (h : dataLine s.lines = false) : wPollAckH s = failedPoll s := if_neg (by simp [h])

/-- An event that is a failed poll spends one of the budget, and the last one abandons the write (R187, R195). -/
theorem runEvent_of_failedPoll {e : Event} (h : runEvent e s = .next (failedPoll s)) :
    (1 < s.wr.esc → runEvent e s = .next { s with wr.esc := s.wr.esc - 1 }) ∧
      (s.wr.esc = 1 → runEvent e s = .next { s with
        wr.esc := 0, wr.ws := .idle, flags.wto := true, edge := { rxie := true, rxif := false } }) :=
  ⟨fun hleft => by rw [h, failedPoll_of_one_lt hleft], fun hlast => by rw [h, failedPoll_of_eq_one hlast]⟩

end

/-! The level of a slot (R189, R190). -/

theorem slotLevel_of_lt (b : Byte) {i : Fin 10} (hi : i.val < 8) : slotLevel b i = b.getLsbD i.val := by
  rw [slotLevel, if_pos (by omega), wbit, if_pos hi]

theorem slotLevel_parity (b : Byte) : slotLevel b 8 = parity b := rfl

theorem slotLevel_stop (b : Byte) : slotLevel b 9 = true := rfl

/-- Settles O32: the level placed is `slotLevel`, whose parity bit is that of O37. -/
theorem pollLowPlacesTheBit : Obligations.PollLowPlacesTheBit := by
  intro s hws
  have hpoll : runEvent .wPollLow s = .next (wPollLow s) := congrArg _ (whenWriter_of_eq hws wPollLow)
  refine ⟨fun hlow => ⟨slotLevel s.wr.wbyte s.wr.wi, fun i hi => ?_, fun hi => ?_, fun hi => ?_, ?_⟩,
    fun hhigh => ?_⟩
  · rw [slotLevel_of_lt _ (hi ▸ i.isLt), hi]
  · obtain ⟨hparity, -⟩ := parityIsOdd s.wr.wbyte
    rw [hi, slotLevel_parity, hparity]
  · rw [hi, slotLevel_stop]
  · rw [hpoll, wPollLow_of_low hlow]
  · exact runEvent_of_failedPoll (by rw [hpoll, wPollLow_of_high hhigh])

/-- Settles O33: on a high clock the two cases are a slot before the stop slot and the stop slot. -/
theorem pollHighEndsTheSlot : Obligations.PollHighEndsTheSlot := by
  intro s hws
  have hpoll : runEvent .wPollHigh s = .next (wPollHigh s) := congrArg _ (whenWriter_of_eq hws wPollHigh)
  refine ⟨fun hhigh => ⟨fun i _ hi => ?_, fun hi => ?_⟩, fun hlow => ?_⟩
  · rw [hpoll, wPollHigh_of_high_next hhigh hi]
  · rw [hpoll, wPollHigh_of_high_stop hhigh hi]
  · exact runEvent_of_failedPoll (by rw [hpoll, wPollHigh_of_low hlow])

/-- Settles O34: each acknowledgement poll sees its level or fails. -/
theorem acknowledgementEndsTheWrite : Obligations.AcknowledgementEndsTheWrite := by
  intro s
  have hackL (hws : s.wr.ws = .al) : runEvent .wPollAckL s = .next (wPollAckL s) :=
    congrArg _ (whenWriter_of_eq hws wPollAckL)
  have hackH (hws : s.wr.ws = .ah) : runEvent .wPollAckH s = .next (wPollAckH s) :=
    congrArg _ (whenWriter_of_eq hws wPollAckH)
  refine ⟨fun hws hlow => ?_, fun hws hhigh => ?_, fun e he => ?_⟩
  · rw [hackL hws, wPollAckL_of_low hlow, enterWait]
  · rw [hackH hws, wPollAckH_of_high hhigh, finishWrite_eq]
  · obtain ⟨rfl, hws, hhigh⟩ | ⟨rfl, hws, hlow⟩ := he
    · exact runEvent_of_failedPoll (by rw [hackL hws, wPollAckL_of_high hhigh])
    · exact runEvent_of_failedPoll (by rw [hackH hws, wPollAckH_of_low hlow])

/-! ### A device that never responds (R187, R195) -/

/-- While the clock stays high, polls within the budget only spend it. -/
theorem iterate_wPollLow_of_high {s : State} (hhigh : clkLine s.lines = true) {k : Nat} (hk : k < s.wr.esc) :
    wPollLow^[k] s = { s with wr.esc := s.wr.esc - k } := by
  induction k with
  | zero => rfl
  | succ k ih =>
    have hleft : 1 < s.wr.esc - k := by omega
    rw [Function.iterate_succ_apply', ih (by omega), wPollLow_of_high (s := { s with wr.esc := s.wr.esc - k }) hhigh,
      failedPoll_of_one_lt hleft]
    rfl

/-- Settles O35: the polls before the last leave `ESC` at 1, where the last one abandons the write. -/
theorem anUnresponsiveDeviceExhaustsTheBudget : Obligations.AnUnresponsiveDeviceExhaustsTheBudget := by
  intro s _ hhigh hesc
  refine ⟨fun k hk => iterate_wPollLow_of_high hhigh hk, ?_⟩
  obtain ⟨k, hk⟩ : ∃ k, s.wr.esc = k + 1 := ⟨s.wr.esc - 1, by omega⟩
  have hlast : s.wr.esc - k = 1 := by omega
  rw [hk, Function.iterate_succ_apply', iterate_wPollLow_of_high hhigh (by omega),
    wPollLow_of_high (s := { s with wr.esc := s.wr.esc - k }) hhigh, failedPoll_of_eq_one hlast]

/-! ### Ten pulses of the device (R182, R198) -/

section
variable (s : State)

/-- The low level of a pulse, seen by a poll, places the level of the slot. -/
theorem wPollLow_devDrive_pull : wPollLow (devDrive (some false) none s) = { s with
    lines := { s.lines with dclk := false, hdat := slotLevel s.wr.wbyte s.wr.wi }
    edge.rxif := s.edge.rxif || clkLine s.lines
    wr := { s.wr with ws := .wh, esc := s.cfg.escBudget } } := by
  rw [devDrive_pull_eq]
  exact wPollLow_of_low (Bool.and_false _)

/-- The state in which the high level of a pulse is polled. -/
def pulseHigh : State := { s with
  lines := { s.lines with dclk := true, hdat := slotLevel s.wr.wbyte s.wr.wi }
  edge.rxif := s.edge.rxif || clkLine s.lines
  wr := { s.wr with ws := .wh, esc := s.cfg.escBudget } }

theorem slotPulse_eq : slotPulse s = wPollHigh (pulseHigh s) := by
  rw [slotPulse, wPollLow_devDrive_pull, devDrive_release_eq]
  rfl

variable {s} (hclk : s.lines.hclk = true)
include hclk

theorem clkLine_pulseHigh : clkLine (pulseHigh s).lines = true := Bool.and_eq_true_iff.2 ⟨hclk, rfl⟩

theorem slotPulse_of_next {i : Fin 10} (hi : i.val = s.wr.wi.val + 1) : slotPulse s =
    { pulseHigh s with wr.wi := i, wr.ws := .wl, wr.esc := s.cfg.escBudget } :=
  (slotPulse_eq s).trans (wPollHigh_of_high_next (clkLine_pulseHigh hclk) hi)

theorem slotPulse_of_stop (hi : s.wr.wi = 9) : slotPulse s =
    { pulseHigh s with wr.ws := .al, wr.esc := s.cfg.escBudget } :=
  (slotPulse_eq s).trans (wPollHigh_of_high_stop (clkLine_pulseHigh hclk) hi)

omit hclk in
theorem slotLevels_succ (n : Nat) (s : State) :
    slotLevels (n + 1) s = slotLevel s.wr.wbyte s.wr.wi :: slotLevels n (slotPulse s) := by
  rw [slotLevels, wPollLow_devDrive_pull]

omit hclk in
theorem drop_finRange_eq_cons (i : Fin 10) :
    (List.finRange 10).drop i.val = i :: (List.finRange 10).drop (i.val + 1) := by
  rw [List.drop_eq_getElem_cons (by simp), List.getElem_finRange]
  rfl

/-- A pulse for each of the slots from `WI` on, `n` of them before the stop slot, shows their levels and leads to the
wait for the acknowledgement with the data line released. -/
theorem slotLevels_and_end {n : Nat} (hn : s.wr.wi.val + n = 9) :
    slotLevels (n + 1) s = ((List.finRange 10).drop s.wr.wi.val).map (slotLevel s.wr.wbyte) ∧
      (slotPulse^[n + 1] s).wr.ws = .al ∧ (slotPulse^[n + 1] s).lines.hdat = true := by
  rw [slotLevels_succ, drop_finRange_eq_cons, List.map_cons, Function.iterate_succ_apply]
  induction n generalizing s with
  | zero =>
    have hi : s.wr.wi = 9 := by omega
    rw [Function.iterate_zero_apply, slotPulse_of_stop hclk hi, hi]
    exact ⟨rfl, rfl, congrArg (slotLevel s.wr.wbyte) hi⟩
  | succ n ih =>
    have hnext := slotPulse_of_next hclk (i := ⟨s.wr.wi.val + 1, by omega⟩) rfl
    obtain ⟨hlevels, hend⟩ := ih (s := slotPulse s) (by rw [hnext]; exact hclk) (by rw [hnext]; dsimp only; omega)
    refine ⟨?_, hend⟩
    rw [slotLevels_succ, hlevels, hnext, drop_finRange_eq_cons ⟨s.wr.wi.val + 1, by omega⟩]
    rfl

end

/-- Settles O36: the ten levels are those of `slotLevel`, from slot 0 to the stop slot. -/
theorem aWritePlacesByteParityAndStop : Obligations.AWritePlacesByteParityAndStop := by
  intro s _ hi hclk
  obtain ⟨hlevels, hend⟩ := slotLevels_and_end hclk (n := 9) (by rw [hi]; rfl)
  exact ⟨by rw [hlevels, hi]; rfl, hend⟩

/-! ### The number of polls (R188, R197) -/

theorem pollsLeft_of_waiting {s : State} (hws : waiting s.wr.ws = true) :
    pollsLeft s = s.wr.esc + waitsAfter s.wr * s.cfg.escBudget := if_pos hws

theorem pollsLeft_of_idle {s : State} (hws : s.wr.ws = .idle) : pollsLeft s = 0 := by
  rw [pollsLeft, hws]
  rfl

section
variable {s : State} (hws : waiting s.wr.ws = true) (hesc : 1 ≤ s.wr.esc)
include hws hesc

theorem pollsLeft_pos : 0 < pollsLeft s := by
  rw [pollsLeft_of_waiting hws]
  omega

theorem pollsLeft_failedPoll_lt : pollsLeft (failedPoll s) < pollsLeft s := by
  obtain ⟨-, heq⟩ | ⟨-, heq⟩ := failedPoll_cases s <;> rw [heq]
  · rw [pollsLeft_of_waiting hws, pollsLeft_of_waiting (s := { s with wr.esc := s.wr.esc - 1 }) hws]
    change s.wr.esc - 1 + waitsAfter s.wr * s.cfg.escBudget < _
    omega
  · rw [pollsLeft_of_idle rfl]
    exact pollsLeft_pos hws hesc

/-- The next wait has a full budget, but is one fewer to come. -/
theorem pollsLeft_lt_of_next_wait {t : State} (hcfg : t.cfg = s.cfg) (hws' : waiting t.wr.ws = true)
    (hesc' : t.wr.esc = s.cfg.escBudget) (hwaits : waitsAfter s.wr = waitsAfter t.wr + 1) :
    pollsLeft t < pollsLeft s := by
  rw [pollsLeft_of_waiting hws, pollsLeft_of_waiting hws', hcfg, hesc', hwaits, Nat.succ_mul]
  omega

end

/-- The poll of a wait fails, or begins the next wait, or ends the write. -/
theorem pollsLeft_pollStep_lt {s : State} (hwait : waiting s.wr.ws = true) (hesc : 1 ≤ s.wr.esc) :
    pollsLeft (pollStep s) < pollsLeft s := by
  have hfailed := pollsLeft_failedPoll_lt hwait hesc
  have hnext (t : State) := pollsLeft_lt_of_next_wait (t := t) hwait hesc
  have hpos := pollsLeft_pos hwait hesc
  unfold pollStep
  split
  case h_1 hws =>
    obtain ⟨-, heq⟩ | ⟨-, heq⟩ := wPollLow_cases s <;> rw [heq]
    · exact hfailed
    · refine hnext _ rfl rfl rfl ?_
      simp only [waitsAfter, hws]
      omega
  case h_2 hws =>
    obtain ⟨-, i, hi, heq⟩ | ⟨-, hi, heq⟩ | ⟨-, heq⟩ := wPollHigh_cases s <;> rw [heq]
    · refine hnext _ rfl rfl rfl ?_
      simp only [waitsAfter, hws, enterWait_wr]
      omega
    · refine hnext _ rfl rfl rfl ?_
      simp [waitsAfter, hws, hi]
    · exact hfailed
  case h_3 hws =>
    obtain ⟨-, heq⟩ | ⟨-, heq⟩ := wPollAckL_cases s <;> rw [heq]
    · exact hfailed
    · refine hnext _ rfl rfl rfl ?_
      simp [waitsAfter, hws]
  case h_4 =>
    obtain ⟨-, heq⟩ | ⟨-, heq⟩ := wPollAckH_cases s <;> rw [heq]
    · rwa [finishWrite_eq, pollsLeft_of_idle rfl]
    · exact hfailed
  case h_5 hws | h_6 hws | h_7 hws => simp [waiting, hws] at hwait

theorem waitsAfter_le (w : Writer) : waitsAfter w ≤ 21 := by
  unfold waitsAfter
  split <;> omega

/-- Settles O38: the wait in progress holds at most one budget, and at most 21 waits follow it. -/
theorem theQuantityOfPollsIsBounded : Obligations.TheQuantityOfPollsIsBounded := by
  refine ⟨fun s h hwait => ?_, fun s => ?_⟩
  · obtain ⟨-, -, -, -, -, -, -, hesc⟩ := h
    obtain ⟨hpos, hle⟩ := hesc hwait
    refine ⟨pollsLeft_pollStep_lt hwait hpos, ?_⟩
    have hlater := Nat.mul_le_mul_right s.cfg.escBudget (waitsAfter_le s.wr)
    rw [pollsLeft_of_waiting hwait]
    omega
  · have hrelease : pollsLeft (wRtsDone s) = s.cfg.escBudget + 21 * s.cfg.escBudget := rfl
    omega

/-! ### What a write keeps of the receive engine (R197, R305) -/

/-- `t` has the receive engine, the slots and the `TAIL` of `s`. -/
def ReceiveKept (s t : State) : Prop := t.rx = s.rx ∧ t.ring.tail = s.ring.tail ∧ t.ring.buf = s.ring.buf

theorem ReceiveKept.refl (s : State) : ReceiveKept s s := ⟨rfl, rfl, rfl⟩

theorem WriterStep.receiveKept {s t : State} (h : WriterStep s t) : ReceiveKept s t := by
  rw [WriterStep] at h
  rw [h]
  exact .refl s

section
variable (s : State)

theorem rxpop_receiveKept : ReceiveKept s (rxpop s) := by
  obtain ⟨-, heq⟩ | ⟨-, heq⟩ := rxpop_cases s <;> rw [heq] <;> exact .refl s

theorem rxDrainTurn_receiveKept : ReceiveKept s (rxDrainTurn s) := by
  have hpop := rxpop_receiveKept s
  simp only [rxDrainTurn]
  split
  · exact hpop
  · exact hpop

theorem mouseStep_receiveKept : ReceiveKept s (mouseStep s) := by
  have hpop := rxpop_receiveKept s
  unfold mouseStep
  split
  case h_1 =>
    dsimp only
    split
    · exact .refl s
    · exact .refl s
  case h_2 =>
    dsimp only
    split
    · exact hpop
    · exact hpop
  case h_3 => exact hpop
  case h_4 => exact hpop

theorem tickOrUrgent_receiveKept {s : State} (hrx : rxServiceEnabled s = false) :
    ReceiveKept s (tickOrUrgent s) := by
  obtain ⟨hon, -⟩ | ⟨-, -, heq⟩ | ⟨-, -, heq⟩ := tickOrUrgent_cases s
  · simp [hrx] at hon
  · rw [heq]
    exact .refl s
  · rw [heq, oscSettle_eq]
    exact .refl s

/-- No host command samples or pushes. -/
theorem exec_next_receiveKept (i : Instr) : ∃ t, exec i s = .next t ∧ ReceiveKept s t := by
  cases i with
  | irsend code =>
    simp only [exec, execIrsend]
    split <;> exact ⟨_, rfl, .refl s⟩
  | ps2wr byte =>
    simp only [exec, execPs2wr]
    split <;> exact ⟨_, rfl, .refl s⟩
  | rxpop => exact ⟨_, rfl, rxpop_receiveKept s⟩
  | rxen en =>
    simp only [exec, execRxen]
    split
    · exact ⟨_, rfl, .refl s⟩
    · split <;> exact ⟨_, rfl, .refl s⟩
  | nop | irrpt | rxcnt | rdst | clrf => exact ⟨_, rfl, .refl s⟩
  | reserved9 | reservedA | reservedB | reservedC | reservedD | reservedE | reservedF => exact ⟨_, rfl, .refl s⟩

variable {s}

/-- A guarded step keeps what its effect keeps. -/
theorem whenEnabled_receiveKept (g : State → Bool) {f : State → State} (hf : ReceiveKept s (f s)) :
    ReceiveKept s (whenEnabled g f s) :=
  whenEnabled_inv (.refl s) fun _ => hf

/-- Where RX_SERVICE is not enabled, only RESET changes what the receive engine writes. -/
theorem runEvent_next_receiveKept {e : Event} (hrx : rxServiceEnabled s = false) (he : e ≠ .reset) :
    ∃ t, runEvent e s = .next t ∧ ReceiveKept s t := by
  cases e with
  | host cw => exact exec_next_receiveKept s (decode cw)
  | rxDrain => exact ⟨_, rfl, rxDrainTurn_receiveKept s⟩
  | mouseDecode => exact ⟨_, rfl, mouseStep_receiveKept s⟩
  | tick => exact ⟨_, rfl, tickOrUrgent_receiveKept hrx⟩
  | devDrive clk dat => exact ⟨_, rfl, .refl s⟩
  | rxService => exact ⟨s, congrArg Host.Outcome.next (whenEnabled_false hrx), .refl s⟩
  | wReqDone => exact ⟨_, rfl, whenEnabled_receiveKept _ (.refl s)⟩
  | wRtsDone => exact ⟨_, rfl, whenEnabled_receiveKept _ (.refl s)⟩
  | wPollLow => exact ⟨_, rfl, whenEnabled_receiveKept _ (wPollLow_writerStep s).receiveKept⟩
  | wPollHigh => exact ⟨_, rfl, whenEnabled_receiveKept _ (wPollHigh_writerStep s).receiveKept⟩
  | wPollAckL => exact ⟨_, rfl, whenEnabled_receiveKept _ (wPollAckL_writerStep s).receiveKept⟩
  | wPollAckH => exact ⟨_, rfl, whenEnabled_receiveKept _ (wPollAckH_writerStep s).receiveKept⟩
  | irFire => exact ⟨_, rfl, whenEnabled_receiveKept _ (.refl s)⟩
  | oscStep => exact ⟨_, rfl, whenEnabled_receiveKept _ (.refl s)⟩
  | reset => exact absurd rfl he

end

/-- Settles O39: a busy writer masks the receive interrupt, so that RX_SERVICE is not enabled. -/
theorem nothingIsReceivedDuringAWrite : Obligations.NothingIsReceivedDuringAWrite := by
  rintro e s t ⟨hmask, -⟩ hbusy he hrun
  have hrx : rxServiceEnabled s = false := by simp [rxServiceEnabled, hmask hbusy]
  obtain ⟨u, hu, hkept⟩ := runEvent_next_receiveKept hrx he
  rw [hrun] at hu
  cases hu
  obtain ⟨hrx, htail, hbuf⟩ := hkept
  exact ⟨hrx, htail, fun a => by rw [bufRead, bufRead, hbuf]⟩

end Sys2Proof.Machine

/-! SUPPORT. The companion decoder MOUSE_DECODE: one command of the function in each of its phases, and whole calls
during which no other agent acts (R221 to R227, log entry 16). -/

namespace Sys2Proof.Machine

/-! ### What the function reports (R225, R226) -/

/-- A delta byte and its sign bit as the formula of R225. -/
theorem delta_eq (sign : Bool) (b : Byte) : delta sign b = (b.toNat : Int) - 256 * sign.toNat := by
  cases sign <;> rfl

section
variable (btn : BitVec 2) (dx dy : Int)

theorem moveMask_buttons : (moveMask btn dx dy).extractLsb' 0 2 = btn :=
  BitVec.extractLsb'_append_eq_right

/-- The four directions are independent bits, so that it is enough to look at every choice of them. -/
theorem moveMask_directions :
    (moveMask btn dx dy).getLsbD 2 = decide (dy < 0) ∧ (moveMask btn dx dy).getLsbD 3 = decide (0 < dy) ∧
    (moveMask btn dx dy).getLsbD 4 = decide (dx < 0) ∧ (moveMask btn dx dy).getLsbD 5 = decide (0 < dx) := by
  rw [moveMask]
  generalize decide (dy < 0) = up, decide (0 < dy) = down, decide (dx < 0) = left, decide (0 < dx) = right
  revert btn up down left right
  decide

end

theorem mousePacket_of_overflowed {status : Byte} (h : overflowed status = true) (x y : Byte) (m : MouseHost) :
    mousePacket status x y m = mouseKeep m :=
  if_pos h

theorem mousePacket_of_not_overflowed {status : Byte} (h : overflowed status = false) (x y : Byte) (m : MouseHost) :
    mousePacket status x y m =
      { btn := status.extractLsb' 0 2, phase := .idle,
        mask := moveMask (status.extractLsb' 0 2) (delta (status.getLsbD 4) x) (delta (status.getLsbD 5) y) } :=
  if_neg (by simp [h])

/-! ### One command of the function, by its phase (R227) -/

section
variable {s : State}

theorem mouseStep_of_idle_few (hphase : s.mouse.phase = .idle) (hfew : (ringCount s.cfg s.ring).toNat < 3) :
    mouseStep s = { rxcnt s with mouse := mouseKeep s.mouse } := by
  simp only [mouseStep, hphase]
  exact if_pos hfew

theorem mouseStep_of_idle_enough (hphase : s.mouse.phase = .idle) (henough : ¬ (ringCount s.cfg s.ring).toNat < 3) :
    mouseStep s = { rxcnt s with mouse.phase := .needStatus } := by
  simp only [mouseStep, hphase]
  exact if_neg henough

end

/-- Between two commands of the function: the parameters, the entries of the ring and the function's own registers. -/
structure DecoderAt (p : Params) (entries : List Byte) (m : MouseHost) (s : State) : Prop where
  cfg : s.cfg = p
  ring : RingWf p s.ring
  entries : ringEntries p s.ring = entries
  mouse : s.mouse = m

section
variable {p : Params} {b : Byte} {l : List Byte} {m : MouseHost} {s : State}

/-- The function's own registers are all that changes. -/
theorem DecoderAt.setMouse (h : DecoderAt p l m s) (m' : MouseHost) : DecoderAt p l m' { s with mouse := m' } where
  cfg := h.cfg
  ring := h.ring
  entries := h.entries
  mouse := rfl

variable (hp : p.wf = true)
include hp

/-- A pop answers the oldest entry and leaves the others (R160). -/
theorem DecoderAt.pop (h : DecoderAt p (b :: l) m s) : respLow (rxpop s).resp = b ∧ DecoderAt p l m (rxpop s) := by
  obtain ⟨rfl, hr, hentries, hmouse⟩ := h
  obtain ⟨t, hpop, hresp, hrest, hkept⟩ := rxpopTakesTheOldestEntry s b l hp ((ringInv_iff s).2 hr) hentries
  cases hpop
  obtain ⟨-, hr', -⟩ := rxpop_of_ringCount_pos hp hr (by simp [← ringEntries_length, hentries])
  have hcfg := rxpop_cfg s
  refine ⟨?_, hcfg, hcfg ▸ hr', hcfg ▸ hrest, (congrArg State.mouse hkept).trans hmouse⟩
  exact (congrArg respLow hresp).trans (respLow_respByte b)

omit hp in
theorem DecoderAt.start (h : DecoderAt p l m s) (hphase : m.phase = .idle) (hlen : 3 ≤ l.length) :
    DecoderAt p l { m with phase := .needStatus } (mouseStep s) := by
  obtain ⟨rfl, hr, rfl, rfl⟩ := h
  rw [ringEntries_length] at hlen
  rw [mouseStep_of_idle_enough hphase (by omega)]
  exact ⟨rfl, hr, rfl, rfl⟩

theorem DecoderAt.status_misaligned (h : DecoderAt p (b :: l) { m with phase := .needStatus } s)
    (hb : aligned p b = false) : DecoderAt p l (mouseKeep m) (mouseStep s) := by
  obtain ⟨hlow, hpop⟩ := h.pop hp
  have hstep : mouseStep s = { rxpop s with mouse := mouseKeep m } := by
    simp [mouseStep, h.mouse, h.cfg, hpop.mouse, hlow, hb, mouseKeep]
  rw [hstep]
  exact hpop.setMouse _

theorem DecoderAt.status_aligned (h : DecoderAt p (b :: l) { m with phase := .needStatus } s)
    (hb : aligned p b = true) : DecoderAt p l { m with phase := .needX b } (mouseStep s) := by
  obtain ⟨hlow, hpop⟩ := h.pop hp
  have hstep : mouseStep s = { rxpop s with mouse := { m with phase := .needX b } } := by
    simp [mouseStep, h.mouse, h.cfg, hpop.mouse, hlow, hb]
  rw [hstep]
  exact hpop.setMouse _

theorem DecoderAt.delta_x {status : Byte} (h : DecoderAt p (b :: l) { m with phase := .needX status } s) :
    DecoderAt p l { m with phase := .needY status b } (mouseStep s) := by
  obtain ⟨hlow, hpop⟩ := h.pop hp
  have hstep : mouseStep s = { rxpop s with mouse := { m with phase := .needY status b } } := by
    simp [mouseStep, h.mouse, hpop.mouse, hlow]
  rw [hstep]
  exact hpop.setMouse _

theorem DecoderAt.delta_y {status x : Byte} (h : DecoderAt p (b :: l) { m with phase := .needY status x } s) :
    DecoderAt p l (mousePacket status x b m) (mouseStep s) := by
  obtain ⟨hlow, hpop⟩ := h.pop hp
  have hstep : mouseStep s = { rxpop s with mouse := mousePacket status x b m } := by
    simp [mouseStep, h.mouse, hpop.mouse, hlow, mousePacket, mouseKeep]
  rw [hstep]
  exact hpop.setMouse _

/-! ### Whole calls -/

variable {st x y : Byte}

theorem DecoderAt.call_misaligned (h : DecoderAt p (st :: x :: y :: l) m s) (hphase : m.phase = .idle)
    (hst : aligned p st = false) : DecoderAt p (x :: y :: l) (mouseKeep m) (mouseStep^[2] s) :=
  (h.start hphase (by simp)).status_misaligned hp hst

theorem DecoderAt.call_aligned (h : DecoderAt p (st :: x :: y :: l) m s) (hphase : m.phase = .idle)
    (hst : aligned p st = true) : DecoderAt p l (mousePacket st x y m) (mouseStep^[4] s) :=
  (((h.start hphase (by simp)).status_aligned hp hst).delta_x hp).delta_y hp

end

/-- Settles O57: a call is its commands in order, RXCNT, RXPOP for the status and, where it is aligned, two more. -/
theorem mouseDecodeReportsThePacket : Obligations.MouseDecodeReportsThePacket := by
  refine ⟨fun _ => rfl, fun s hp hring hphase => ⟨fun hfew => ?_, fun st x y rest hentries => ?_⟩⟩
  · rw [ringEntries_length] at hfew
    rw [mouseStep_of_idle_few hphase hfew]
    exact ⟨rfl, rfl⟩
  · have hat : DecoderAt s.cfg (st :: x :: y :: rest) s.mouse s := ⟨rfl, (ringInv_iff s).1 hring, hentries, rfl⟩
    refine ⟨fun hmis => ?_, fun hal hover => ?_, fun hal hgood => ?_⟩
    · have hend := hat.call_misaligned hp hphase (decide_eq_false hmis)
      exact ⟨hend.entries, hend.mouse⟩
    · have hend := hat.call_aligned hp hphase (decide_eq_true hal)
      rw [mousePacket_of_overflowed hover] at hend
      exact ⟨hend.entries, hend.mouse⟩
    · have hend := hat.call_aligned hp hphase (decide_eq_true hal)
      rw [mousePacket_of_not_overflowed hgood] at hend
      refine ⟨_, _, delta_eq _ x, delta_eq _ y, hend.entries, ?_⟩
      rw [hend.mouse]
      exact ⟨rfl, rfl, moveMask_buttons _ _ _, moveMask_directions _ _ _⟩

end Sys2Proof.Machine

/-! SUPPORT. The infrared transmit engine as the host and the schedule see it: what an event can do to its registers,
the square wave of the oscillator, the arms, and one firing as an event (R242 to R249, R252, R254). -/

namespace Sys2Proof.Machine

/-! ### What an event can do to the time, the infrared registers and the oscillator (R314) -/

/-- `t` has the time, the infrared registers and the oscillator of `s`. -/
structure TransmitKept (s t : State) : Prop where
  now : t.now = s.now
  ir : t.ir = s.ir
  osc : t.osc = s.osc

theorem TransmitKept.refl (s : State) : TransmitKept s s := ⟨rfl, rfl, rfl⟩

/-- The commands that begin a frame (R242, R243). -/
def IsArm (i : Instr) : Prop := i = .irrpt ∨ ∃ code, i = .irsend code

/-- What an event other than RESET can do to the time, the infrared registers and the oscillator. -/
inductive TransmitStep (e : Event) (s t : State) : Prop
  /-- The step of an agent that owns none of them. -/
  | kept (h : TransmitKept s t)
  /-- An arm, by the host. -/
  | arm (w : Word) (he : e = .host w) (harm : IsArm (decode w)) (hnow : t.now = s.now) (hosc : t.osc = s.osc)
  /-- A firing, of the engine's own or ahead of a `TICK`. -/
  | fire (hdue : irFireEnabled s = true) (hnow : t.now = s.now) (hosc : t.osc = s.osc)
  /-- A toggle at its instant. -/
  | toggle (hdue : s.now = s.osc.due) (hnow : t.now = s.now) (hir : t.ir = s.ir) (hosc : t.osc = oscToggle s.cfg s.osc)
  /-- A microsecond that ends, with the toggles that fall in it. -/
  | time (ht : t = tick (oscSettle (oscTogglesAtOnce s.cfg) s))

theorem WriterStep.transmitKept {s t : State} (h : WriterStep s t) : TransmitKept s t := by
  rw [WriterStep] at h
  rw [h]
  exact ⟨rfl, rfl, rfl⟩

section
variable (s : State)

theorem rxpop_transmitKept : TransmitKept s (rxpop s) := by
  obtain ⟨-, heq⟩ | ⟨-, heq⟩ := rxpop_cases s <;> rw [heq] <;> exact ⟨rfl, rfl, rfl⟩

theorem rxDrainTurn_transmitKept : TransmitKept s (rxDrainTurn s) := by
  obtain ⟨hnow, hir, hosc⟩ := rxpop_transmitKept s
  simp only [rxDrainTurn]
  split <;> exact ⟨hnow, hir, hosc⟩

theorem mouseStep_transmitKept : TransmitKept s (mouseStep s) := by
  obtain ⟨hnow, hir, hosc⟩ := rxpop_transmitKept s
  unfold mouseStep
  split
  case h_1 =>
    dsimp only
    split <;> exact ⟨rfl, rfl, rfl⟩
  case h_2 =>
    dsimp only
    split <;> exact ⟨hnow, hir, hosc⟩
  case h_3 => exact ⟨hnow, hir, hosc⟩
  case h_4 => exact ⟨hnow, hir, hosc⟩

/-- A command leaves the time and the oscillator alone, and but for an arm the infrared registers too. -/
theorem exec_next_transmit (i : Instr) : ∃ t, exec i s = .next t ∧
    (TransmitKept s t ∨ IsArm i ∧ t.now = s.now ∧ t.osc = s.osc) := by
  cases i with
  | irsend code =>
    simp only [exec, execIrsend]
    split
    · exact ⟨_, rfl, .inl ⟨rfl, rfl, rfl⟩⟩
    · exact ⟨_, rfl, .inr ⟨.inr ⟨code, rfl⟩, rfl, rfl⟩⟩
  | irrpt => exact ⟨_, rfl, .inr ⟨.inl rfl, rfl, rfl⟩⟩
  | ps2wr byte =>
    simp only [exec, execPs2wr]
    split <;> exact ⟨_, rfl, .inl ⟨rfl, rfl, rfl⟩⟩
  | rxpop => exact ⟨_, rfl, .inl (rxpop_transmitKept s)⟩
  | rxen en =>
    simp only [exec, execRxen]
    split
    · exact ⟨_, rfl, .inl ⟨rfl, rfl, rfl⟩⟩
    · split <;> exact ⟨_, rfl, .inl ⟨rfl, rfl, rfl⟩⟩
  | nop | rxcnt | rdst | clrf => exact ⟨_, rfl, .inl ⟨rfl, rfl, rfl⟩⟩
  | reserved9 | reservedA | reservedB | reservedC | reservedD | reservedE | reservedF =>
    exact ⟨_, rfl, .inl ⟨rfl, rfl, rfl⟩⟩

theorem tickOrUrgent_transmitStep (e : Event) : TransmitStep e s (tickOrUrgent s) := by
  obtain ⟨-, heq⟩ | ⟨-, hdue, heq⟩ | ⟨-, -, heq⟩ := tickOrUrgent_cases s
  · rw [heq]
    exact .kept ⟨rfl, rfl, rfl⟩
  · rw [heq]
    exact .fire hdue rfl rfl
  · exact .time heq

variable {s}

/-- A guarded step whose effect leaves the transmit registers alone. -/
theorem whenEnabled_transmitStep (e : Event) (g : State → Bool) {f : State → State} (hf : TransmitKept s (f s)) :
    TransmitStep e s (whenEnabled g f s) :=
  .kept (whenEnabled_inv (.refl s) fun _ => hf)

theorem runEvent_next_transmitStep {e : Event} (he : e ≠ .reset) :
    ∃ t, runEvent e s = .next t ∧ TransmitStep e s t := by
  cases e with
  | host cw =>
    obtain ⟨t, ht, hkept | ⟨harm, hnow, hosc⟩⟩ := exec_next_transmit s (decode cw)
    · exact ⟨t, ht, .kept hkept⟩
    · exact ⟨t, ht, .arm cw rfl harm hnow hosc⟩
  | rxDrain => exact ⟨_, rfl, .kept (rxDrainTurn_transmitKept s)⟩
  | mouseDecode => exact ⟨_, rfl, .kept (mouseStep_transmitKept s)⟩
  | tick => exact ⟨_, rfl, tickOrUrgent_transmitStep s _⟩
  | devDrive clk dat => exact ⟨_, rfl, .kept ⟨rfl, rfl, rfl⟩⟩
  | rxService => exact ⟨_, rfl, whenEnabled_transmitStep _ _ ⟨rfl, rfl, rfl⟩⟩
  | wReqDone => exact ⟨_, rfl, whenEnabled_transmitStep _ _ ⟨rfl, rfl, rfl⟩⟩
  | wRtsDone => exact ⟨_, rfl, whenEnabled_transmitStep _ _ ⟨rfl, rfl, rfl⟩⟩
  | wPollLow => exact ⟨_, rfl, whenEnabled_transmitStep _ _ (wPollLow_writerStep s).transmitKept⟩
  | wPollHigh => exact ⟨_, rfl, whenEnabled_transmitStep _ _ (wPollHigh_writerStep s).transmitKept⟩
  | wPollAckL => exact ⟨_, rfl, whenEnabled_transmitStep _ _ (wPollAckL_writerStep s).transmitKept⟩
  | wPollAckH => exact ⟨_, rfl, whenEnabled_transmitStep _ _ (wPollAckH_writerStep s).transmitKept⟩
  | irFire => exact ⟨_, rfl, whenEnabled_inv (.kept (.refl s)) fun hdue => .fire hdue rfl rfl⟩
  | oscStep =>
    exact ⟨_, rfl, whenEnabled_inv (.kept (.refl s)) fun hdue => .toggle (of_decide_eq_true hdue) rfl rfl rfl⟩
  | reset => exact absurd rfl he

theorem runEvent_transmitStep {e : Event} {t : State} (hrun : runEvent e s = .next t) (he : e ≠ .reset) :
    TransmitStep e s t := by
  obtain ⟨u, hu, hstep⟩ := runEvent_next_transmitStep (s := s) he
  rw [hrun] at hu
  cases hu
  exact hstep

end

/-- Settles O47: a stopped timer has no firing due and does not count, so that an arm alone is left. -/
theorem aStoppedEngineWaitsForAnArm : Obligations.AStoppedEngineWaitsForAnArm := by
  intro e s t hrun hten he hsend hrpt
  cases runEvent_transmitStep hrun he with
  | kept h => exact h.ir
  | arm w hw harm =>
    obtain hrepeat | ⟨code, hcode⟩ := harm
    · exact absurd hrepeat (hrpt w hw)
    · exact absurd hcode (hsend w code hw)
  | fire hdue =>
    obtain ⟨hrunning, -⟩ := (irFireEnabled_iff s).1 hdue
    simp [hten] at hrunning
  | toggle _ _ hir => exact hir
  | time ht =>
    rw [ht, tick_of_stopped (by rw [oscSettle_ir, hten])]
    exact oscSettle_ir _ s

/-! ### The toggles of the oscillator (R252) -/

/-- The instant of the next toggle moves on by the hold time of the new level. -/
theorem oscToggle_due (p : Params) (o : Oscillator) : ∃ k : Nat, (oscToggle p o).due = o.due + BitVec.ofNat 32 k ∧
    k * oscUnit p + (oscToggle p o).frac = o.frac + oscHold p (!o.level) :=
  ⟨_, rfl, Nat.div_add_mod' _ _⟩

theorem oscHold_not (p : Params) (level : Bool) :
    oscHold p (!level) = 1000000 * (if level then p.dutyDen - p.dutyNum else p.dutyNum) := by
  cases level <;> rfl

/-- The hold times of the two levels are one period. -/
theorem oscHold_add_not {p : Params} (hp : p.wf = true) (level : Bool) :
    oscHold p (!level) + oscHold p level = 1000000 * p.dutyDen := by
  simp only [Params.wf, decide_eq_true_eq] at hp
  cases level <;> simp only [oscHold, Bool.not_true, Bool.not_false, Bool.false_eq_true, if_true, if_false] <;> omega

theorem oscToggle_oscToggle_due {p : Params} (hp : p.wf = true) (o : Oscillator) :
    ∃ k : Nat, (oscToggle p (oscToggle p o)).due = o.due + BitVec.ofNat 32 k ∧
      k * oscUnit p + (oscToggle p (oscToggle p o)).frac = o.frac + 1000000 * p.dutyDen := by
  obtain ⟨j, hdue, hspan⟩ := oscToggle_due p o
  obtain ⟨k, hdue', hspan'⟩ := oscToggle_due p (oscToggle p o)
  have hback : (!(oscToggle p o).level) = o.level := Bool.not_not o.level
  have hperiod := oscHold_add_not hp o.level
  rw [hback] at hspan'
  refine ⟨j + k, by rw [hdue', hdue, BitVec.add_assoc, BitVec.ofNat_add], ?_⟩
  rw [Nat.add_mul]
  omega

/-- Settles O49: a toggle moves its instant on by one hold time, two toggles by the hold times of both levels. -/
theorem theOscillatorIsASquareWave : Obligations.TheOscillatorIsASquareWave := by
  refine ⟨fun p o hp => ⟨rfl, Nat.mod_lt _ (oscUnit_pos hp), ?_, oscToggle_oscToggle_due hp o⟩, fun s hdue => ?_,
    fun s hdue => ?_, fun s => ⟨fun hgate => ?_, fun hgate => ?_⟩⟩
  · rw [← oscHold_not]
    exact oscToggle_due p o
  · exact congrArg _ (whenEnabled_true (decide_eq_true hdue))
  · exact congrArg _ (whenEnabled_false (decide_eq_false hdue))
  · simp [irOut, hgate]
  · simp [irOut, hgate]

/-- Where a toggle is due, settling that may toggle at all does. -/
theorem oscSettle_osc_of_due (n : Nat) {s : State} (hdue : s.now = s.osc.due) :
    ∃ k, (oscSettle (n + 1) s).osc = (oscToggle s.cfg)^[k + 1] s.osc := by
  obtain ⟨k, -, hk⟩ := oscSettle_osc n (oscStep s)
  refine ⟨k, ?_⟩
  rw [oscSettle, oscStepEnabled, decide_eq_true hdue, if_pos rfl, hk]
  rfl

/-- Settles O59: the oscillator toggles in OSC_STEP and where time passes, which settles it first. -/
theorem noToggleIsEarlyOrMissed : Obligations.NoToggleIsEarlyOrMissed := by
  refine ⟨fun e s t hrun he => ?_, fun e s t hp hosc hrun he hpass => ?_⟩
  · cases runEvent_transmitStep hrun he with
    | kept h => exact ⟨0, h.osc, fun _ => rfl⟩
    | arm _ _ _ _ hosc => exact ⟨0, hosc, fun _ => rfl⟩
    | fire _ _ hosc => exact ⟨0, hosc, fun _ => rfl⟩
    | toggle hdue _ _ hosc => exact ⟨1, hosc, fun hne => absurd hdue hne⟩
    | time ht =>
      by_cases hdue : s.now = s.osc.due
      · obtain ⟨n, -, hn⟩ := oscSettle_osc (oscTogglesAtOnce s.cfg) s
        exact ⟨n, by rw [ht, tick_osc, hn], fun hne => absurd hdue hne⟩
      · exact ⟨0, by rw [ht, oscSettle_of_ne _ hdue]; rfl, fun _ => rfl⟩
  · cases runEvent_transmitStep hrun he with
    | kept h => exact absurd h.now hpass
    | arm _ _ _ hnow => exact absurd hnow hpass
    | fire _ hnow => exact absurd hnow hpass
    | toggle _ hnow => exact absurd hnow hpass
    | time ht =>
      have hlimit := oscUnit_le_togglesAtOnce s.cfg
      obtain ⟨-, hsettled⟩ := oscSettle_wf (oscTogglesAtOnce s.cfg) hp ((oscInv_iff s).1 hosc) (by omega)
      rw [ht, tick_osc]
      exact ⟨hsettled.symm, oscSettle_osc_of_due _⟩

/-! ### The arms (R242 to R244) -/

theorem exec_irsend_zero (s : State) : exec (.irsend 0) s = .next (respond respNo s) := rfl

theorem exec_irrpt (s : State) : exec .irrpt s = .next (respond respYes { s with
    ir := { sr := s.ir.sr, ph := phRepeat, tcnt := 0, ocr := s.cfg.lit.tStart, gate := true, ten := true } }) := rfl

/-- Settles O17: the two cases of IRSEND are the zero code and any other. -/
theorem irsendArmsACodeFrame : Obligations.IrsendArmsACodeFrame := by
  obtain ⟨hdecode, -⟩ := operandsAreReadAndIgnoredBitsAreIgnored
  refine ⟨hdecode, fun code s => ⟨fun hzero => ?_, fun hcode => exec_irsend hcode s, rfl⟩⟩
  rw [hzero]
  exact exec_irsend_zero s

/-- Settles O18: IRRPT has one case. -/
theorem irrptArmsARepeatFrame : Obligations.IrrptArmsARepeatFrame :=
  ⟨fun w hop => by simp [decode, hop], rfl, exec_irrpt⟩

/-- Settles O45: what an arm leaves names the literals and, for IRRPT, `SR`, and no other infrared register. -/
theorem anArmForgetsTheFrameInFlight : Obligations.AnArmForgetsTheFrameInFlight := by
  refine ⟨fun code s s' t t' hcode hlit hs hs' => ?_, fun s s' t t' hsr hlit hs hs' => ?_⟩
  · rw [exec_irsend hcode, Host.Outcome.next.injEq] at hs hs'
    rw [← hs, ← hs', respond_ir, respond_ir, hlit]
  · rw [exec_irrpt, Host.Outcome.next.injEq] at hs hs'
    rw [← hs, ← hs', respond_ir, respond_ir, hlit, hsr]

/-! ### One firing as an event (R246, R249) -/

/-- The firing of `IDLE` and of the values behind `REPEAT` is that of `STOP` (R251). -/
theorem fireIr_of_not_sending {p : Params} {e : IrEngine} (h : e.ph = 50 ∨ e.ph = 51 ∨ 53 ≤ e.ph) :
    fireIr p e = stopIr e := by
  have hph : 50 ≤ e.ph.toNat ∧ e.ph.toNat ≠ 52 := by bv_omega
  have hsub : ¬ e.ph.toNat ≤ Config.nSub := by
    rw [Config.nSub]
    omega
  simp only [fireIr]
  rw [if_neg (by omega : ¬ e.ph.toNat = 0), if_neg hsub, if_neg (by omega : ¬ e.ph.toNat = 49),
    if_neg (by omega : ¬ e.ph.toNat = 52), ite_self]

theorem runEvent_irFire_of_due {s : State} (hten : s.ir.ten = true) (hdue : s.ir.tcnt = s.ir.ocr) {e : IrEngine}
    (hfire : fireIr s.cfg s.ir = e) : runEvent .irFire s = .next { s with ir := e } := by
  subst hfire
  exact congrArg _ (whenEnabled_true ((irFireEnabled_iff s).2 ⟨hten, hdue⟩))

/-- Settles O41: one lemma of `fireIr` for each value of the phase. -/
theorem aFiringDoesWhatItsPhaseNames : Obligations.AFiringDoesWhatItsPhaseNames := by
  refine ⟨by decide, fun s => ⟨fun hno => ?_, fun hten hdue => ?_⟩⟩
  · rw [← irFireEnabled_iff, Bool.not_eq_true] at hno
    exact congrArg _ (whenEnabled_false hno)
  · have hfires {e : IrEngine} := runEvent_irFire_of_due (e := e) hten hdue
    refine ⟨fun h => hfires (fireIr_start h), fun n hle hodd h => hfires (fireIr_odd hle hodd h),
      fun n hlow hle heven h b hb => ?_, fun h => hfires (fireIr_endPulse h),
      fun h => hfires (fireIr_of_not_sending h), fun h => hfires (fireIr_repeat h)⟩
    subst hb
    exact hfires (fireIr_even hlow hle heven h)

end Sys2Proof.Machine

/-! SUPPORT. The host system commands NOP, RDST, CLRF and the reserved words, and the step that takes a command word
from the schedule (R51, R280 to R283, R287). -/

namespace Sys2Proof.Machine

/-! ### A scheduled command word -/

theorem runEvent_host (cw : Word) (s : State) : runEvent (.host cw) s = exec (decode cw) s := rfl

/-- Settles O6: the word at the head of the schedule is the step's event, and the event of a word is its command. -/
theorem stepRunsTheScheduledCommand : Obligations.StepRunsTheScheduledCommand := by
  rintro s cw i rest hp hsched rfl
  rw [step_eq hp, nextEvent_cons hsched, takeEvent_cons hsched, runEvent_host]

/-! ### NOP -/

/-- Settles O9: NOP writes the response alone. -/
theorem nopWritesNothing : Obligations.NopWritesNothing :=
  ⟨fun _ => rfl, fun w hop => by simp [decode, hop]⟩

/-! ### RDST -/

/-- The layout of STATUS, from bit 0 up (R51). -/
def statusBits (s : State) : List Bool :=
  [!ringEmpty s.ring, s.edge.rxie, writerBusy s.wr, s.ir.ten, s.flags.ovf, s.flags.rsy, s.flags.wto, s.flags.ill,
    s.flags.wok, s.ir.gate, clkLine s.lines, dataLine s.lines]

/-- A bit appended below a word stands in front of the list of the word's bits. -/
theorem getLsbD_append_ofBool {n : Nat} {x : BitVec n} {l : List Bool} (hx : ∀ i, x.getLsbD i = l.getD i false)
    (b : Bool) (i : Nat) : (x ++ BitVec.ofBool b).getLsbD i = (b :: l).getD i false := by
  cases i with
  | zero => exact BitVec.getLsbD_concat_zero
  | succ i => exact BitVec.getLsbD_concat_succ.trans (hx i)

/-- The STATUS word is its twelve bits, appended one by one below the four reserved zeros. -/
theorem statusWord_getLsbD (s : State) (i : Nat) : (statusWord s).getLsbD i = (statusBits s).getD i false := by
  revert i
  unfold statusWord
  iterate 12 refine getLsbD_append_ofBool ?_ _
  exact fun _ => BitVec.getLsbD_zero

/-- Bits 15:12 of STATUS are reserved and read as 0 (R51). -/
theorem statusWord_reserved (s : State) : (statusWord s).extractLsb' 12 4 = 0x0 := by
  apply BitVec.eq_of_getLsbD_eq
  intro i _
  have hbeyond : (statusBits s).length ≤ 12 + i := Nat.le_add_right 12 i
  rw [BitVec.getLsbD_extractLsb', statusWord_getLsbD, List.getD_eq_default _ _ hbeyond, Bool.and_false]
  exact BitVec.getLsbD_zero.symm

/-- Settles O10: the response is STATUS, bit by bit in its layout. -/
theorem rdstAnswersStatus : Obligations.RdstAnswersStatus := by
  refine ⟨fun w hop => by simp [decode, hop], fun s => ?_⟩
  have hbit := statusWord_getLsbD s
  exact ⟨statusWord s, rfl, (hbit 0).trans decide_not.symm, hbit 1, hbit 2, hbit 3, hbit 4, hbit 5, hbit 6, hbit 7,
    hbit 8, hbit 9, hbit 10, hbit 11, statusWord_reserved s⟩

/-! ### CLRF -/

theorem clearFlags_eq (m : BitVec 5) (f : Sticky) : clearFlags m f =
    { ovf := if m.getLsbD 0 then false else f.ovf
      rsy := if m.getLsbD 1 then false else f.rsy
      wto := if m.getLsbD 2 then false else f.wto
      ill := if m.getLsbD 3 then false else f.ill
      wok := if m.getLsbD 4 then false else f.wok } := by
  simp [clearFlags, Bool.and_comm]

theorem exec_clrf (mask : BitVec 5) (s : State) :
    exec (.clrf mask) s = .next { s with resp := 0x0000, flags := clearFlags mask s.flags } := rfl

/-- Settles O11: the mask clears flag by flag, and the mask of a word is its bits 4 to 8. -/
theorem clrfClearsTheMaskedFlags : Obligations.ClrfClearsTheMaskedFlags := by
  obtain ⟨-, -, hdecode, -⟩ := operandsAreReadAndIgnoredBitsAreIgnored
  refine ⟨fun mask s => ?_, fun w s hop => ?_⟩
  · rw [exec_clrf, clearFlags_eq]
  · rw [hdecode w hop, exec_clrf, clearFlags_eq]
    simp only [BitVec.getLsbD_extractLsb']
    rfl

/-! ### The reserved words -/

/-- The commands of opcode 9 and above all do the same (R287). -/
theorem exec_of_reserved {i : Instr} (hop : 0x9 ≤ i.op) (s : State) :
    exec i s = .next { s with flags.ill := true, resp := 0x0000 } := by
  cases i with
  | nop | irsend | irrpt | ps2wr | rxpop | rxcnt | rdst | clrf | rxen => simp [Instr.op] at hop
  | reserved9 | reservedA | reservedB | reservedC | reservedD | reservedE | reservedF => rfl

/-- Settles O12: the seven commands, and the command of every word with one of their opcodes, have opcode 9 or above. -/
theorem reservedWordsSetIllOnly : Obligations.ReservedWordsSetIllOnly := by
  have hreserved : ∀ i ∈ [Instr.reserved9, .reservedA, .reservedB, .reservedC, .reservedD, .reservedE, .reservedF],
      0x9 ≤ i.op := by decide
  refine ⟨fun i s hi => exec_of_reserved (hreserved i hi) s, fun w s hop => exec_of_reserved ?_ s⟩
  rwa [(decode_op_arg w).1]

end Sys2Proof.Machine

/-! SUPPORT. No step fails to complete, what one service and one arm leave, and the rows of R314: what each host command
and each internal step leaves unchanged (60_exceptions.md). -/

namespace Sys2Proof.Machine

/-! ### Completion (R300) -/

/-- Parameters outside R8 are refused (U4). -/
theorem step_of_not_wf {s : State} (h : s.cfg.wf = false) : step s = .refused .parametersOutsideSpec := by
  simp [step, stepBody, h]

/-- Settles O8: a step is its event where the parameters are within R8, and every event is carried out. -/
theorem everyStepCompletes : Obligations.EveryStepCompletes := by
  refine ⟨fun s hp => ?_, fun _ => step_of_not_wf⟩
  obtain ⟨t, hrun, -⟩ := runEvent_next_cfg (nextEvent s) (takeEvent s)
  exact ⟨t, (step_eq hp).trans hrun⟩

/-! ### The causes of one service (R303) -/

/-- The first sample of a frame is not the one that pushes (R8, log entry 19). -/
theorem rxPushAt_ne_one {p : Params} (hp : p.wf = true) : p.lit.rxPushAt ≠ 1 := by
  simp only [Params.wf, Literals.wf, decide_eq_true_eq] at hp
  bv_omega

/-- A service that finds the edge late counts it as the first sample, and so does not raise `OVF`. -/
theorem rxService_ovf_of_late {s : State} (hp : s.cfg.wf = true) (hlate : rxLate s = true) :
    (rxService s).flags.ovf = s.flags.ovf := by
  have hfirst : countBefore s + 1 ≠ s.cfg.lit.rxPushAt := by
    rw [countBefore, if_pos hlate]
    exact (rxPushAt_ne_one hp).symm
  rw [rxService_ovf, decide_eq_false hfirst, Bool.false_and, Bool.or_false]

/-- Settles O23: `RSY` needs a late edge, and a late edge is not the sample that can raise `OVF`. -/
theorem oneServiceRaisesAtMostOneCause : Obligations.OneServiceRaisesAtMostOneCause := by
  rintro s hp hrsy hovf ⟨hrsy', hovf'⟩
  rw [rxService_rsy, hrsy, Bool.false_or, Bool.and_eq_true] at hrsy'
  obtain ⟨hlate, -⟩ := hrsy'
  rw [rxService_ovf_of_late hp hlate, hovf] at hovf'
  exact Bool.false_ne_true hovf'

/-! ### The two services, and an arm ahead of a firing (R308, R309) -/

/-- A start pulse that has just begun does not end at once: its length is not 0 (R8, log entry 19). -/
theorem irFireEnabled_of_start_pulse {s : State} {p : Params} (hp : p.wf = true) (htcnt : s.ir.tcnt = 0)
    (hocr : s.ir.ocr = p.lit.tStart) : irFireEnabled s = false := by
  have hstart : (0 : Word) ≠ p.lit.tStart := by
    simp only [Params.wf, Literals.wf, decide_eq_true_eq] at hp
    bv_omega
  rw [irFireEnabled, htcnt, hocr, decide_eq_false hstart, Bool.and_false]

/-- Settles O48: RX_SERVICE writes no infrared register and IR_FIRE writes no other one; both arms begin the start
pulse. -/
theorem servicesCommuteAndArmsReplaceFirings : Obligations.ServicesCommuteAndArmsReplaceFirings := by
  refine ⟨fun s => rfl, fun s t hp ht => ?_, fun code s t hp hcode ht => ?_⟩
  · cases ht
    exact irFireEnabled_of_start_pulse hp rfl rfl
  · rw [exec_irsend hcode] at ht
    cases ht
    exact irFireEnabled_of_start_pulse hp rfl rfl

/-! ### What a host command leaves unchanged (R314) -/

/-- What a host command can do: the response apart, the one owner of each register that commands write. -/
inductive HostStep (s : State) : Instr → State → Prop
  /-- Any command that is not reserved may only answer. -/
  | answer {i : Instr} (hop : ¬ 0x9 ≤ i.op) (v : Word) : HostStep s i (respond v s)
  /-- An arm begins a frame. -/
  | arm {i : Instr} (hop : ¬ 0x9 ≤ i.op) (harm : IsArm i) (e : IrEngine) (v : Word) :
    HostStep s i (respond v { s with ir := e })
  /-- PS2WR starts a write. -/
  | write (byte : Byte) (v : Word) : HostStep s (.ps2wr byte) (respond v (startWrite byte s))
  /-- RXPOP takes the oldest byte. -/
  | pop (v : Word) : HostStep s .rxpop (respond v { s with ring := ringDrop s.cfg s.ring })
  /-- CLRF clears flags. -/
  | clear (mask : BitVec 5) (f : Sticky) (v : Word) : HostStep s (.clrf mask) (respond v { s with flags := f })
  /-- RXEN sets the receive enable, and may clear the latch. -/
  | enable (en : Bool) (irq : EdgeIrq) (v : Word) : HostStep s (.rxen en) (respond v { s with edge := irq })
  /-- A reserved word raises `ILL`. -/
  | reserved {i : Instr} (hop : 0x9 ≤ i.op) (v : Word) : HostStep s i (respond v { s with flags.ill := true })

theorem exec_next_hostStep (i : Instr) (s : State) : ∃ t, exec i s = .next t ∧ HostStep s i t := by
  by_cases hop : 0x9 ≤ i.op
  · exact ⟨_, exec_of_reserved hop s, .reserved hop 0x0000⟩
  cases i with
  | nop | rxcnt | rdst => exact ⟨_, rfl, .answer hop _⟩
  | irsend code =>
    simp only [exec, execIrsend]
    split
    · exact ⟨_, rfl, .answer hop _⟩
    · exact ⟨_, rfl, .arm hop (.inr ⟨code, rfl⟩) _ _⟩
  | irrpt => exact ⟨_, rfl, .arm hop (.inl rfl) _ _⟩
  | ps2wr byte =>
    simp only [exec, execPs2wr]
    split
    · exact ⟨_, rfl, .answer hop _⟩
    · exact ⟨_, rfl, .write byte _⟩
  | rxpop =>
    refine ⟨_, rfl, ?_⟩
    obtain ⟨-, heq⟩ | ⟨-, heq⟩ := rxpop_cases s <;> rw [heq]
    · exact .answer hop _
    · exact .pop _
  | clrf mask => exact ⟨_, rfl, .clear mask _ _⟩
  | rxen en =>
    simp only [exec, execRxen]
    split
    · exact ⟨_, rfl, .answer hop _⟩
    · split <;> exact ⟨_, rfl, .enable en _ _⟩
  | reserved9 | reservedA | reservedB | reservedC | reservedD | reservedE | reservedF =>
    exact absurd (by decide) hop

theorem hostStep_of_exec {i : Instr} {s t : State} (hexec : exec i s = .next t) : HostStep s i t := by
  obtain ⟨u, hu, hstep⟩ := exec_next_hostStep i s
  rw [hexec] at hu
  cases hu
  exact hstep

section
variable {i : Instr} {s t : State} (h : HostStep s i t)
include h

/-- The registers that no command writes. -/
theorem HostStep.kept : t.cfg = s.cfg ∧ t.now = s.now ∧ t.rx = s.rx ∧ t.osc = s.osc ∧ t.mouse = s.mouse ∧
    t.sched = s.sched ∧ t.draws = s.draws ∧ t.ring.tail = s.ring.tail ∧ t.lines.hdat = s.lines.hdat ∧
    t.lines.dclk = s.lines.dclk ∧ t.lines.ddat = s.lines.ddat := by
  cases h <;> exact ⟨rfl, rfl, rfl, rfl, rfl, rfl, rfl, rfl, rfl, rfl, rfl⟩

/-- A command stores to no slot. -/
theorem HostStep.bufRead_eq (a : Nat) : bufRead a t = bufRead a s := by
  cases h <;> rfl

theorem HostStep.head (hpop : i ≠ .rxpop) : t.ring.head = s.ring.head := by
  cases h with
  | pop => exact absurd rfl hpop
  | _ => rfl

theorem HostStep.writer (hwrite : ∀ b, i ≠ .ps2wr b) : t.wr = s.wr ∧ t.lines.hclk = s.lines.hclk := by
  cases h with
  | write byte => exact absurd rfl (hwrite byte)
  | _ => exact ⟨rfl, rfl⟩

theorem HostStep.edge (hwrite : ∀ b, i ≠ .ps2wr b) (hen : ∀ en, i ≠ .rxen en) : t.edge = s.edge := by
  cases h with
  | write byte => exact absurd rfl (hwrite byte)
  | enable en => exact absurd rfl (hen en)
  | _ => rfl

theorem HostStep.ir (hsend : ∀ code, i ≠ .irsend code) (hrpt : i ≠ .irrpt) : t.ir = s.ir := by
  cases h with
  | arm _ harm =>
    obtain hrepeat | ⟨code, hcode⟩ := harm
    · exact absurd hrepeat hrpt
    · exact absurd hcode (hsend code)
  | _ => rfl

theorem HostStep.flags (hwrite : ∀ b, i ≠ .ps2wr b) (hclear : ∀ m, i ≠ .clrf m) (hop : ¬ 0x9 ≤ i.op) :
    t.flags = s.flags := by
  cases h with
  | write byte => exact absurd rfl (hwrite byte)
  | clear mask => exact absurd rfl (hclear mask)
  | reserved hres => exact absurd hres hop
  | _ => rfl

/-- PS2WR changes no flag but `WOK`. -/
theorem HostStep.flags_of_ps2wr (hwrite : ∃ b, i = .ps2wr b) : t.flags = { s.flags with wok := t.flags.wok } := by
  obtain ⟨b, rfl⟩ := hwrite
  cases h with
  | reserved hres => exact absurd hres (by simp [Instr.op])
  | _ => rfl

theorem HostStep.flags_of_reserved (hop : 0x9 ≤ i.op) : t.flags = { s.flags with ill := true } := by
  cases h with
  | answer hno | arm hno => exact absurd hop hno
  | write | pop | clear | enable => simp [Instr.op] at hop
  | reserved => rfl

end

/-- Settles O19: one lemma of `HostStep` for each register that some command writes. -/
theorem hostCommandFrame : Obligations.HostCommandFrame := by
  intro i s t hexec
  have h := hostStep_of_exec hexec
  obtain ⟨hcfg, hnow, hrx, hosc, hmouse, hsched, hdraws, htail, hhdat, hdclk, hddat⟩ := h.kept
  exact ⟨hcfg, hnow, hrx, hosc, hmouse, hsched, hdraws, htail, h.bufRead_eq, hhdat, hdclk, hddat,
    h.head, h.writer, h.edge, h.ir, h.flags, h.flags_of_ps2wr, h.flags_of_reserved⟩

/-! ### What an internal step leaves unchanged (R314, R152) -/

/-- The registers of the receive engine's row of R314, and of the ring's slots the one at `TAIL` (R152). -/
structure ReceiveFrame (s t : State) : Prop where
  registers : t = { s with edge.rxif := t.edge.rxif, rx := t.rx, ring.buf := t.ring.buf, ring.tail := t.ring.tail,
                           flags.ovf := t.flags.ovf, flags.rsy := t.flags.rsy }
  slots : ∀ a, a ≠ ringSlot s.cfg s.ring.tail → bufRead a t = bufRead a s

theorem ReceiveFrame.refl (s : State) : ReceiveFrame s s := ⟨rfl, fun _ _ => rfl⟩

/-- A service leaves the ring as it is, or pushes at `TAIL`; neither moves `HEAD`. -/
theorem rxService_receiveFrame (s : State) : ReceiveFrame s (rxService s) := by
  have hregisters : rxService s = { s with
      edge := (rxService s).edge, rx := (rxService s).rx, ring := (rxService s).ring
      flags := (rxService s).flags } := rfl
  constructor
  case registers =>
    rw [hregisters]
    obtain heq | ⟨-, heq⟩ := rxService_ring_cases s <;> rw [heq] <;> rfl
  case slots =>
    intro a ha
    obtain heq | ⟨-, heq⟩ := rxService_ring_cases s <;> rw [bufRead, heq]
    · rfl
    · exact memRead_ringPush_other _ ha

/-- The registers of the writer's row of R314. -/
def WriterFrame (s t : State) : Prop :=
  t = { s with lines.hclk := t.lines.hclk, lines.hdat := t.lines.hdat, edge := t.edge, wr.ws := t.wr.ws,
               wr.wi := t.wr.wi, wr.esc := t.wr.esc, wr.wt0 := t.wr.wt0, flags.wto := t.flags.wto,
               flags.wok := t.flags.wok }

section
variable (s : State)

theorem wReqDone_writerFrame : WriterFrame s (wReqDone s) := by
  rw [wReqDone_eq]
  rfl

theorem wRtsDone_writerFrame : WriterFrame s (wRtsDone s) := by
  rw [wRtsDone_eq]
  rfl

theorem failedPoll_writerFrame : WriterFrame s (failedPoll s) := by
  obtain ⟨-, heq⟩ | ⟨-, heq⟩ := failedPoll_cases s <;> rw [heq] <;> rfl

theorem wPollLow_writerFrame : WriterFrame s (wPollLow s) := by
  obtain ⟨-, heq⟩ | ⟨-, heq⟩ := wPollLow_cases s <;> rw [heq]
  · exact failedPoll_writerFrame s
  · rfl

theorem wPollHigh_writerFrame : WriterFrame s (wPollHigh s) := by
  obtain ⟨-, i, -, heq⟩ | ⟨-, -, heq⟩ | ⟨-, heq⟩ := wPollHigh_cases s <;> rw [heq]
  · rfl
  · rfl
  · exact failedPoll_writerFrame s

theorem wPollAckL_writerFrame : WriterFrame s (wPollAckL s) := by
  obtain ⟨-, heq⟩ | ⟨-, heq⟩ := wPollAckL_cases s <;> rw [heq]
  · exact failedPoll_writerFrame s
  · rfl

theorem wPollAckH_writerFrame : WriterFrame s (wPollAckH s) := by
  obtain ⟨-, heq⟩ | ⟨-, heq⟩ := wPollAckH_cases s <;> rw [heq]
  · rfl
  · exact failedPoll_writerFrame s

variable {s}

/-- A guarded step of the writer keeps to the writer's row where its effect does. -/
theorem whenEnabled_writerFrame (g : State → Bool) {f : State → State} (hf : WriterFrame s (f s)) :
    WriterFrame s (whenEnabled g f s) :=
  whenEnabled_inv rfl fun _ => hf

theorem runEvent_writerFrame {e : Event} {t : State} (hrun : runEvent e s = .next t)
    (he : e ∈ [Event.wReqDone, .wRtsDone, .wPollLow, .wPollHigh, .wPollAckL, .wPollAckH]) : WriterFrame s t := by
  simp only [List.mem_cons, List.not_mem_nil, or_false] at he
  obtain rfl | rfl | rfl | rfl | rfl | rfl := he <;> cases hrun
  · exact whenEnabled_writerFrame _ (wReqDone_writerFrame s)
  · exact whenEnabled_writerFrame _ (wRtsDone_writerFrame s)
  · exact whenEnabled_writerFrame _ (wPollLow_writerFrame s)
  · exact whenEnabled_writerFrame _ (wPollHigh_writerFrame s)
  · exact whenEnabled_writerFrame _ (wPollAckL_writerFrame s)
  · exact whenEnabled_writerFrame _ (wPollAckH_writerFrame s)

end

/-- Settles O53: a guarded step changes nothing or is its effect, and each effect keeps to its agent's row. -/
theorem internalStepFrame : Obligations.InternalStepFrame := by
  refine fun e s t hrun => ⟨?_, runEvent_writerFrame hrun, ?_, ?_, ?_⟩
  · rintro rfl
    cases hrun
    obtain ⟨hregisters, hslots⟩ : ReceiveFrame s (whenEnabled rxServiceEnabled rxService s) :=
      whenEnabled_inv (.refl s) fun _ => rxService_receiveFrame s
    exact ⟨hregisters, hslots⟩
  · rintro rfl
    cases hrun
    exact whenEnabled_inv (P := fun t => t = { s with ir := t.ir }) rfl fun _ => rfl
  · rintro rfl
    cases hrun
    exact whenEnabled_inv (P := fun t => t = { s with osc := t.osc }) rfl fun _ => rfl
  · rintro ⟨c, d, rfl⟩
    cases hrun
    rfl

end Sys2Proof.Machine

/-! SUPPORT. The registers that RESET leaves unspecified do not show (R342): agreement where the spec specifies, kept by
every operation, then by every command, every event and every step. -/

namespace Sys2Proof.Machine

/-! ### Agreement as a relation -/

/-- A register that has just taken the time is no time ago, whatever the time is. -/
theorem elapsed_self_eq (now now' : Micros) : elapsed now now = elapsed now' now' :=
  (BitVec.sub_self now).trans (BitVec.sub_self now').symm

/-- Both time differences grow by one in a microsecond. -/
theorem elapsed_succ (now since : Micros) : elapsed (now + 1) since = elapsed now since + 1 := by
  simp only [elapsed]
  bv_omega

/-- Of a shift register that has sampled nothing no bit is specified. -/
theorem no_bit_eq (a b : Byte) : a >>> 8 = b >>> 8 :=
  (BitVec.ushiftRight_eq_zero (Nat.le_refl 8)).trans (BitVec.ushiftRight_eq_zero (Nat.le_refl 8)).symm

/-- A test with the same result on both sides chooses related values where each branch does. -/
theorem rel_ite_of_iff {α : Type} {R : α → α → Prop} {p q : Prop} [Decidable p] [Decidable q] {a a' b b' : α}
    (hpq : p ↔ q) (hyes : p → R a a') (hno : ¬ p → R b b') : R (if p then a else b) (if q then a' else b') := by
  by_cases hp : p
  · rw [if_pos hp, if_pos (hpq.1 hp)]
    exact hyes hp
  · rw [if_neg hp, if_neg (mt hpq.2 hp)]
    exact hno hp

/-- A wait state is no hold. -/
theorem not_hold_of_waiting {ws : WState} (h : waiting ws = true) : ¬ (ws = .req ∨ ws = .rts) := by
  rintro (rfl | rfl) <;> cases h

/-- A ring of which `HEAD` and `TAIL` are the same has no entry. -/
theorem ringEntries_of_head_eq_tail (p : Params) {r : Ring} (h : r.head = r.tail) : ringEntries p r = [] := by
  simp [ringEntries, ringCount, h]

/-- The top `n + 1` bits after a sample are the sample and the top `n` bits before it (R154). -/
theorem shiftIn_ushiftRight_eq {a b : Byte} {n : Nat} (bit : Bool) (hab : a >>> (8 - n) = b >>> (8 - n)) :
    shiftIn a bit >>> (8 - (n + 1)) = shiftIn b bit >>> (8 - (n + 1)) := by
  by_cases hn : n < 8
  · have hmove (c : Byte) : c >>> 1 >>> (8 - (n + 1)) = c >>> (8 - n) := by
      rw [← BitVec.shiftRight_add, show 1 + (8 - (n + 1)) = 8 - n by omega]
    simp only [shiftIn, BitVec.ushiftRight_or_distrib, hmove, hab]
  · rw [show 8 - n = 0 by omega, BitVec.ushiftRight_zero, BitVec.ushiftRight_zero] at hab
    rw [hab]

/-- The count after a sample does not wrap (R27). -/
theorem Inv.countBefore_succ_toNat {s : State} (hs : Inv s) :
    (countBefore s + 1).toNat = (countBefore s).toNat + 1 := by
  obtain ⟨hp, -, hrx, -⟩ := hs
  have hlt := countBefore_lt hp hrx
  bv_omega

theorem rxService_flags (s : State) : (rxService s).flags = { s.flags with
    ovf := s.flags.ovf || (decide (countBefore s + 1 = s.cfg.lit.rxPushAt) && ringFull s.cfg s.ring)
    rsy := s.flags.rsy || (rxLate s && decide (s.rx.bitcnt ≠ 0)) } := rfl

/-- Whatever two RESETs draw, they agree where the states before agreed in what RESET keeps (R342, R343). -/
theorem resetTo_agree {s t : State} (hcfg : s.cfg = t.cfg) (hlines : s.lines = t.lines) (hsched : s.sched = t.sched)
    (hdraws : s.draws = t.draws) (d d' : ResetDraw) (f f' : Nat → Byte) :
    AgreeWhereSpecified (resetTo d f s) (resetTo d' f' t) where
  cfg := hcfg
  lines := by simp only [resetTo, hlines]
  edge := rfl
  bitcnt := rfl
  acc := no_bit_eq _ _
  last := fun hframe => absurd rfl hframe
  head := rfl
  tail := rfl
  entries := (ringEntries_of_head_eq_tail _ rfl).trans (ringEntries_of_head_eq_tail _ rfl).symm
  ws := rfl
  wi := rfl
  wbyte := fun hbusy => absurd rfl hbusy
  esc := nofun
  wt0 := fun hhold => absurd hhold (by simp [resetTo, State.reset])
  ir := rfl
  flags := rfl
  mouse := rfl
  resp := rfl
  sched := hsched
  draws := congrArg (· + 1) hdraws

/-- `r` under `p` and `r'` under `q` have the same indices and the same entries. -/
def SameQueue (p q : Params) (r r' : Ring) : Prop :=
  r.head = r'.head ∧ r.tail = r'.tail ∧ ringEntries p r = ringEntries q r'

section
variable {s t : State} (h : AgreeWhereSpecified s t)
include h

/-- The outside sees registers that the spec specifies (R18). -/
theorem AgreeWhereSpecified.observed_eq : observed s = observed t := by
  simp only [observed, h.resp, h.lines, h.ir]

theorem resetEvent_agree : AgreeWhereSpecified (resetEvent s) (resetEvent t) :=
  resetTo_agree h.cfg h.lines h.sched h.draws _ _ _ _

/-! ### Operations that several agents use -/

theorem respond_agree {v w : Word} (hvw : v = w) : AgreeWhereSpecified (respond v s) (respond w t) :=
  { h with resp := hvw }

theorem raiseFlag_agree (f : Flag) : AgreeWhereSpecified (raiseFlag f s) (raiseFlag f t) := by
  cases f <;> exact { h with flags := by simp [h.flags] }

theorem setLines_agree (a b c d : Option Bool) : AgreeWhereSpecified (setLines a b c d s) (setLines a b c d t) :=
  { h with
    lines := by simp only [setLines, h.lines]
    edge := by simp only [setLines, h.lines, h.edge] }

theorem rearm_agree : AgreeWhereSpecified (rearm s) (rearm t) := { h with edge := rfl }

theorem holdTick_agree : AgreeWhereSpecified (holdTick s) (holdTick t) :=
  { h with sched := congrArg (Event.tick :: ·) h.sched }

/-- A step with the same guard on both sides keeps agreement where its effect does. -/
theorem whenEnabled_agree {g : State → Bool} {f : State → State} (hg : g s = g t)
    (hf : g s = true → AgreeWhereSpecified (f s) (f t)) :
    AgreeWhereSpecified (whenEnabled g f s) (whenEnabled g f t) :=
  rel_ite_of_iff (by rw [hg]) hf fun _ => h

/-! ### The ring and the commands that read it (R160 to R162) -/

theorem AgreeWhereSpecified.ringEmpty_eq : ringEmpty s.ring = ringEmpty t.ring := by
  simp only [ringEmpty, h.head, h.tail]

theorem AgreeWhereSpecified.ringFull_eq : ringFull s.cfg s.ring = ringFull t.cfg t.ring := by
  simp only [ringFull, h.cfg, h.head, h.tail]

theorem AgreeWhereSpecified.ringCount_eq : ringCount s.cfg s.ring = ringCount t.cfg t.ring := by
  simp only [ringCount, h.cfg, h.head, h.tail]

theorem AgreeWhereSpecified.statusWord_eq : statusWord s = statusWord t := by
  simp only [statusWord, writerBusy, h.lines, h.ir, h.flags, h.ws, h.edge, h.ringEmpty_eq]

theorem rxcnt_agree : AgreeWhereSpecified (rxcnt s) (rxcnt t) := respond_agree h h.ringCount_eq

/-- RXPOP answers the first of the entries, which are specified, and leaves the others. -/
theorem rxpop_agree (hs : Inv s) (ht : Inv t) : AgreeWhereSpecified (rxpop s) (rxpop t) := by
  refine rel_ite_of_iff (by rw [h.ringEmpty_eq]) (fun _ => respond_agree h rfl) fun hne => ?_
  have hne : s.ring.head ≠ s.ring.tail := fun heq => hne (decide_eq_true heq)
  have hentries := h.entries
  rw [ringEntries_eq_front_cons hs.wf hs.ringWf hne,
    ringEntries_eq_front_cons ht.wf ht.ringWf (by rwa [← h.head, ← h.tail]), List.cons.injEq] at hentries
  obtain ⟨hfront, hrest⟩ := hentries
  have hhead : (ringDrop s.cfg s.ring).head = (ringDrop t.cfg t.ring).head := by
    rw [ringDrop_head, ringDrop_head, h.cfg, h.head]
  exact { h with head := hhead, entries := hrest, resp := congrArg respByte hfront }

theorem rxDrainTurn_agree (hs : Inv s) (ht : Inv t) : AgreeWhereSpecified (rxDrainTurn s) (rxDrainTurn t) := by
  have hpop := rxpop_agree h hs ht
  exact rel_ite_of_iff (by rw [hpop.resp]) (fun _ => { hpop with sched := congrArg (Event.rxDrain :: ·) hpop.sched })
    fun _ => hpop

/-- The host's decoder reads responses, parameters and its own registers (R227). -/
theorem mouseStep_agree (hs : Inv s) (ht : Inv t) : AgreeWhereSpecified (mouseStep s) (mouseStep t) := by
  have hcnt := rxcnt_agree h
  have hpop := rxpop_agree h hs ht
  cases hphase : s.mouse.phase with
  | idle =>
    simp only [mouseStep, hphase, h.mouse ▸ hphase]
    exact rel_ite_of_iff (by rw [hcnt.resp]) (fun _ => { hcnt with mouse := by rw [hcnt.mouse] })
      fun _ => { hcnt with mouse := by rw [hcnt.mouse] }
  | needStatus =>
    simp only [mouseStep, hphase, h.mouse ▸ hphase]
    exact rel_ite_of_iff (by rw [hpop.cfg, hpop.resp])
      (fun _ => { hpop with mouse := by rw [hpop.mouse, hpop.resp] }) fun _ => { hpop with mouse := by rw [hpop.mouse] }
  | needX status =>
    simp only [mouseStep, hphase, h.mouse ▸ hphase]
    exact { hpop with mouse := by rw [hpop.mouse, hpop.resp] }
  | needY status x =>
    simp only [mouseStep, hphase, h.mouse ▸ hphase]
    exact { hpop with mouse := by rw [hpop.mouse, hpop.resp] }

/-! ### The receive engine (R152 to R157) -/

/-- The gap since the last sample is specified where a frame is in progress, and elsewhere the watchdog has nothing to
discard (R153). -/
theorem AgreeWhereSpecified.rxLate_eq (hframe : s.rx.bitcnt ≠ 0) : rxLate s = rxLate t := by
  simp only [rxLate, h.cfg, h.last hframe]

theorem AgreeWhereSpecified.countBefore_eq : countBefore s = countBefore t := by
  by_cases hframe : s.rx.bitcnt = 0
  · simp [countBefore, hframe, h.bitcnt ▸ hframe]
  · rw [countBefore, countBefore, h.rxLate_eq hframe, h.bitcnt]

/-- The bits sampled before are specified where the watchdog lets them stand, and else none counts. -/
theorem AgreeWhereSpecified.acc_countBefore :
    s.rx.acc >>> (8 - (countBefore s).toNat) = t.rx.acc >>> (8 - (countBefore s).toNat) := by
  unfold countBefore
  split
  · exact no_bit_eq _ _
  · exact h.acc

/-- The bits sampled so far are specified. -/
theorem AgreeWhereSpecified.acc_sampled (hs : Inv s) :
    (rxService s).rx.acc >>> (8 - (countBefore s + 1).toNat) =
      (rxService t).rx.acc >>> (8 - (countBefore s + 1).toNat) := by
  rw [hs.countBefore_succ_toNat, rxService_acc, rxService_acc, ← h.lines]
  exact shiftIn_ushiftRight_eq _ h.acc_countBefore

/-- A byte is pushed from the eighth sample on at the earliest, when all bits of the shift register are specified. -/
theorem AgreeWhereSpecified.acc_pushed (hs : Inv s) (hpush : countBefore s + 1 = s.cfg.lit.rxPushAt) :
    (rxService s).rx.acc = (rxService t).rx.acc := by
  have hp := hs.wf
  simp only [Params.wf, Literals.wf, decide_eq_true_eq] at hp
  have hall : 8 - (countBefore s + 1).toNat = 0 := by
    rw [hpush]
    bv_omega
  simpa only [hall, BitVec.ushiftRight_zero] using h.acc_sampled hs

/-- A service pushes on both sides or on neither, and the same byte. -/
theorem rxService_sameQueue (hs : Inv s) (ht : Inv t) :
    SameQueue s.cfg t.cfg (rxService s).ring (rxService t).ring := by
  rw [rxService_ring, rxService_ring]
  refine rel_ite_of_iff (by rw [h.countBefore_eq, h.ringFull_eq, h.cfg]) (fun hpush => ?_)
    fun _ => ⟨h.head, h.tail, h.entries⟩
  rw [Bool.and_eq_true, decide_eq_true_eq, Bool.not_eq_true'] at hpush
  obtain ⟨hcount, hroom⟩ := hpush
  have htail : ringNext s.cfg s.ring.tail = ringNext t.cfg t.ring.tail := by rw [h.cfg, h.tail]
  refine ⟨h.head, htail, ?_⟩
  rw [ringEntries_push hs.wf hs.ringWf hroom, ringEntries_push ht.wf ht.ringWf (h.ringFull_eq ▸ hroom), h.entries]
  exact congrArg (_ ++ [·]) (h.acc_pushed hs hcount)

theorem rxService_flags_eq : (rxService s).flags = (rxService t).flags := by
  have hrsy : (rxLate s && decide (s.rx.bitcnt ≠ 0)) = (rxLate t && decide (t.rx.bitcnt ≠ 0)) := by
    by_cases hframe : s.rx.bitcnt = 0
    · simp [hframe, h.bitcnt ▸ hframe]
    · rw [h.rxLate_eq hframe, h.bitcnt]
  rw [rxService_flags, rxService_flags, hrsy, h.countBefore_eq, h.ringFull_eq, h.flags, h.cfg]

theorem rxService_agree (hs : Inv s) (ht : Inv t) : AgreeWhereSpecified (rxService s) (rxService t) := by
  obtain ⟨hhead, htail, hentries⟩ := rxService_sameQueue h hs ht
  have hacc : (rxService s).rx.acc >>> (8 - (rxService s).rx.bitcnt.toNat) =
      (rxService t).rx.acc >>> (8 - (rxService s).rx.bitcnt.toNat) := by
    rw [rxService_bitcnt]
    split
    · exact no_bit_eq _ _
    · exact h.acc_sampled hs
  exact { h with
    edge := by rw [rxService_edge, rxService_edge, h.edge]
    bitcnt := by rw [rxService_bitcnt, rxService_bitcnt, h.countBefore_eq, h.cfg]
    acc := hacc
    last := fun _ => elapsed_self_eq _ _
    head := hhead
    tail := htail
    entries := hentries
    flags := rxService_flags_eq h }

/-! ### The steps of the infrared engine, of the oscillator and of time -/

theorem irFire_agree : AgreeWhereSpecified (irFire s) (irFire t) :=
  { h with ir := by rw [irFire_ir, irFire_ir, h.cfg, h.ir] }

theorem AgreeWhereSpecified.irFireEnabled_eq : irFireEnabled s = irFireEnabled t := by
  simp only [irFireEnabled, h.ir]

theorem AgreeWhereSpecified.rxServiceEnabled_eq : rxServiceEnabled s = rxServiceEnabled t := by
  simp only [rxServiceEnabled, h.edge]

/-- The oscillator is free on either side (R342). -/
theorem AgreeWhereSpecified.withOsc (o o' : Oscillator) :
    AgreeWhereSpecified { s with osc := o } { t with osc := o' } :=
  { h with }

/-- The toggle may be due on one side only. -/
theorem oscStep_agree :
    AgreeWhereSpecified (whenEnabled oscStepEnabled oscStep s) (whenEnabled oscStepEnabled oscStep t) := by
  have hleft : AgreeWhereSpecified (whenEnabled oscStepEnabled oscStep s) t :=
    whenEnabled_inv (P := (AgreeWhereSpecified · t)) h fun _ => { h with }
  exact whenEnabled_inv hleft fun _ => { hleft with }

theorem tick_agree : AgreeWhereSpecified (tick s) (tick t) :=
  { h with
    last := fun hframe => by simp only [tick_now, tick_rx, elapsed_succ, h.last hframe]
    wt0 := fun hhold => by simp only [tick_now, tick_wr, elapsed_succ, h.wt0 hhold]
    ir := by rw [tick_ir, tick_ir, h.ir] }

theorem tickOrUrgent_agree (hs : Inv s) (ht : Inv t) : AgreeWhereSpecified (tickOrUrgent s) (tickOrUrgent t) := by
  refine rel_ite_of_iff (by rw [h.rxServiceEnabled_eq]) (fun _ => holdTick_agree (rxService_agree h hs ht)) fun _ =>
    rel_ite_of_iff (by rw [h.irFireEnabled_eq]) (fun _ => holdTick_agree (irFire_agree h)) fun _ => ?_
  rw [oscSettle_eq _ s, oscSettle_eq _ t]
  exact tick_agree (h.withOsc _ _)

/-! ### The steps of the writer (R184 to R195) -/

theorem startWrite_agree (byte : Byte) : AgreeWhereSpecified (startWrite byte s) (startWrite byte t) := by
  rw [startWrite_eq, startWrite_eq]
  exact { h with
    lines := by rw [h.lines]
    edge := by rw [h.lines, h.edge]
    ws := rfl
    wi := rfl
    wbyte := fun _ => rfl
    esc := nofun
    wt0 := fun _ => elapsed_self_eq _ _
    flags := by rw [h.flags] }

/-- A wait begins with a full budget on both sides (R188). -/
theorem enterWait_agree {ws : WState} (hws : waiting ws = true) (hbyte : s.wr.wbyte = t.wr.wbyte) :
    AgreeWhereSpecified (enterWait ws s) (enterWait ws t) :=
  { h with
    ws := rfl
    wbyte := fun _ => hbyte
    esc := fun _ => congrArg Params.escBudget h.cfg
    wt0 := fun hhold => absurd hhold (not_hold_of_waiting hws) }

/-- The registers of an idle writer need not agree. -/
theorem AgreeWhereSpecified.withIdle :
    AgreeWhereSpecified { s with wr.ws := .idle } { t with wr.ws := .idle } :=
  { h with
    ws := rfl
    wbyte := fun hbusy => absurd rfl hbusy
    esc := nofun
    wt0 := fun hhold => absurd hhold (by simp) }

theorem abandonWrite_agree : AgreeWhereSpecified (abandonWrite s) (abandonWrite t) :=
  (rearm_agree (raiseFlag_agree h .wto)).withIdle

theorem finishWrite_agree : AgreeWhereSpecified (finishWrite s) (finishWrite t) :=
  (rearm_agree (raiseFlag_agree h .wok)).withIdle

theorem wReqDone_agree (hdue : wReqDoneEnabled s = true) : AgreeWhereSpecified (wReqDone s) (wReqDone t) := by
  obtain ⟨hws, -⟩ := (wReqDoneEnabled_iff s).1 hdue
  exact { setLines_agree h none (some false) none none with
    ws := rfl
    wbyte := fun _ => h.wbyte (by simp [hws])
    esc := nofun
    wt0 := fun _ => elapsed_self_eq _ _ }

theorem AgreeWhereSpecified.withSlot (i : Fin 10) :
    AgreeWhereSpecified { s with wr.wi := i } { t with wr.wi := i } :=
  { h with wi := rfl }

theorem wRtsDone_agree (hdue : wRtsDoneEnabled s = true) : AgreeWhereSpecified (wRtsDone s) (wRtsDone t) := by
  obtain ⟨hws, -⟩ := (wRtsDoneEnabled_iff s).1 hdue
  exact enterWait_agree ((setLines_agree h (some true) none none none).withSlot 0) rfl (h.wbyte (by simp [hws]))

/-- In a wait both sides have the same polls left. -/
theorem failedPoll_agree (hwait : waiting s.wr.ws = true) : AgreeWhereSpecified (failedPoll s) (failedPoll t) := by
  have hesc := h.esc hwait
  have hspent : AgreeWhereSpecified { s with wr.esc := s.wr.esc - 1 } { t with wr.esc := t.wr.esc - 1 } :=
    { h with esc := fun _ => congrArg (· - 1) hesc }
  exact rel_ite_of_iff (by simp only [hesc]) (fun _ => abandonWrite_agree hspent) fun _ => hspent

/-- The byte of a running write is specified, so the level of its slot is (R189). -/
theorem wPollLow_agree (hws : s.wr.ws = .wl) : AgreeWhereSpecified (wPollLow s) (wPollLow t) := by
  have hbyte := h.wbyte (by simp [hws])
  refine rel_ite_of_iff (by rw [h.lines]) (fun _ => failedPoll_agree h (by rw [hws]; rfl)) fun _ => ?_
  rw [← hbyte, ← h.wi]
  exact enterWait_agree (setLines_agree h none (some (slotLevel s.wr.wbyte s.wr.wi)) none none) rfl hbyte

theorem wPollHigh_agree (hws : s.wr.ws = .wh) : AgreeWhereSpecified (wPollHigh s) (wPollHigh t) := by
  have hbyte := h.wbyte (by simp [hws])
  refine rel_ite_of_iff (by rw [h.lines]) (fun _ => ?_) fun _ => failedPoll_agree h (by rw [hws]; rfl)
  simp only [← h.wi]
  split
  · exact enterWait_agree (h.withSlot _) rfl hbyte
  · exact enterWait_agree h rfl hbyte

theorem wPollAckL_agree (hws : s.wr.ws = .al) : AgreeWhereSpecified (wPollAckL s) (wPollAckL t) :=
  rel_ite_of_iff (by rw [h.lines]) (fun _ => failedPoll_agree h (by rw [hws]; rfl))
    fun _ => enterWait_agree h rfl (h.wbyte (by simp [hws]))

theorem wPollAckH_agree (hws : s.wr.ws = .ah) : AgreeWhereSpecified (wPollAckH s) (wPollAckH t) :=
  rel_ite_of_iff (by rw [h.lines]) (fun _ => finishWrite_agree h) fun _ => failedPoll_agree h (by rw [hws]; rfl)

/-- A guarded poll keeps agreement where, in its wait state, its effect does. -/
theorem whenWriter_agree {ws : WState} {f : State → State}
    (hf : s.wr.ws = ws → AgreeWhereSpecified (f s) (f t)) :
    AgreeWhereSpecified (whenWriter ws f s) (whenWriter ws f t) :=
  whenEnabled_agree h (by rw [h.ws]) fun hws => hf (of_decide_eq_true hws)

/-! The time that a hold has lasted is specified (R185, R186). -/

theorem AgreeWhereSpecified.wReqDoneEnabled_eq : wReqDoneEnabled s = wReqDoneEnabled t := by
  by_cases hws : s.wr.ws = .req
  · simp only [wReqDoneEnabled, h.cfg, h.ws, h.wt0 (.inl hws)]
  · simp [wReqDoneEnabled, hws, h.ws ▸ hws]

theorem AgreeWhereSpecified.wRtsDoneEnabled_eq : wRtsDoneEnabled s = wRtsDoneEnabled t := by
  by_cases hws : s.wr.ws = .rts
  · simp only [wRtsDoneEnabled, h.cfg, h.ws, h.wt0 (.inr hws)]
  · simp [wRtsDoneEnabled, hws, h.ws ▸ hws]

end

/-! ### The commands, the events and the step -/

/-- Both answers are next states, and these agree. -/
def AnswersAgree (r r' : Result) : Prop := ∃ s t, r = .next s ∧ r' = .next t ∧ AgreeWhereSpecified s t

section
variable {s t : State} (h : AgreeWhereSpecified s t)
include h

theorem AgreeWhereSpecified.next : AnswersAgree (.next s) (.next t) := ⟨s, t, rfl, rfl, h⟩

theorem AgreeWhereSpecified.writerBusy_eq : writerBusy s.wr = writerBusy t.wr := by simp only [writerBusy, h.ws]

/-- An arm takes no register but the infrared engine's and no unspecified one (R242, R243). -/
theorem armIr_agree (ph : BitVec 6) {e e' : IrEngine} (he : e = e') :
    AgreeWhereSpecified { s with ir := armIr s.cfg.lit ph e } { t with ir := armIr t.cfg.lit ph e' } :=
  { h with ir := by rw [h.cfg, he] }

theorem AgreeWhereSpecified.withFlags {f f' : Sticky} (hf : f = f') :
    AgreeWhereSpecified { s with flags := f } { t with flags := f' } :=
  { h with flags := hf }

theorem AgreeWhereSpecified.withEdge {i i' : EdgeIrq} (hi : i = i') :
    AgreeWhereSpecified { s with edge := i } { t with edge := i' } :=
  { h with edge := hi }

theorem exec_agree (i : Instr) (hs : Inv s) (ht : Inv t) : AnswersAgree (exec i s) (exec i t) := by
  cases i with
  | nop => exact (respond_agree h rfl).next
  | irsend code =>
    refine rel_ite_of_iff Iff.rfl (fun _ => (respond_agree h rfl).next) fun _ => ?_
    exact (respond_agree (armIr_agree h phStart (by rw [h.ir])) rfl).next
  | irrpt => exact (respond_agree (armIr_agree h phRepeat h.ir) rfl).next
  | ps2wr byte =>
    exact rel_ite_of_iff (by rw [h.writerBusy_eq]) (fun _ => (respond_agree h rfl).next)
      fun _ => (respond_agree (startWrite_agree h byte) rfl).next
  | rxpop => exact (rxpop_agree h hs ht).next
  | rxcnt => exact (rxcnt_agree h).next
  | rdst => exact (respond_agree h h.statusWord_eq).next
  | clrf mask => exact (respond_agree (h.withFlags (congrArg (clearFlags mask) h.flags)) rfl).next
  | rxen en =>
    refine rel_ite_of_iff (by rw [h.writerBusy_eq]) (fun _ => (respond_agree h rfl).next) fun _ => ?_
    exact rel_ite_of_iff Iff.rfl (fun _ => (respond_agree (rearm_agree h) rfl).next)
      fun _ => (respond_agree (h.withEdge (by rw [h.edge])) rfl).next
  | reserved9 | reservedA | reservedB | reservedC | reservedD | reservedE | reservedF =>
    exact (respond_agree (raiseFlag_agree h .ill) rfl).next

theorem runEvent_agree (e : Event) (hs : Inv s) (ht : Inv t) : AnswersAgree (runEvent e s) (runEvent e t) := by
  cases e with
  | host cw => exact exec_agree h (decode cw) hs ht
  | rxDrain => exact (rxDrainTurn_agree h hs ht).next
  | mouseDecode => exact (mouseStep_agree h hs ht).next
  | tick => exact (tickOrUrgent_agree h hs ht).next
  | devDrive clk dat => exact (setLines_agree h none none clk dat).next
  | rxService => exact (whenEnabled_agree h h.rxServiceEnabled_eq fun _ => rxService_agree h hs ht).next
  | wReqDone => exact (whenEnabled_agree h h.wReqDoneEnabled_eq (wReqDone_agree h)).next
  | wRtsDone => exact (whenEnabled_agree h h.wRtsDoneEnabled_eq (wRtsDone_agree h)).next
  | wPollLow => exact (whenWriter_agree h (wPollLow_agree h)).next
  | wPollHigh => exact (whenWriter_agree h (wPollHigh_agree h)).next
  | wPollAckL => exact (whenWriter_agree h (wPollAckL_agree h)).next
  | wPollAckH => exact (whenWriter_agree h (wPollAckH_agree h)).next
  | irFire => exact (whenEnabled_agree h h.irFireEnabled_eq fun _ => irFire_agree h).next
  | oscStep => exact (oscStep_agree h).next
  | reset => exact (resetEvent_agree h).next

/-- Both sides take the same event: the schedule and the count of draws are specified. -/
theorem AgreeWhereSpecified.nextEvent_eq : nextEvent s = nextEvent t := by
  simp only [nextEvent, h.sched, h.draws]

theorem takeEvent_agree : AgreeWhereSpecified (takeEvent s) (takeEvent t) := by
  unfold takeEvent
  rw [← h.sched]
  split
  · exact { h with sched := rfl }
  · exact { h with sched := rfl, draws := congrArg (· + 1) h.draws }

theorem step_agree (hs : Inv s) (ht : Inv t) : AnswersAgree (step s) (step t) := by
  rw [step_eq hs.wf, step_eq ht.wf, h.nextEvent_eq]
  exact runEvent_agree (takeEvent_agree h) (nextEvent t) (takeEvent_inv hs) (takeEvent_inv ht)

end

/-- Settles O56: RESET overwrites all that is specified, and every step keeps agreement, in which what is observed is
included. -/
theorem unspecifiedRegistersAreNeverObserved : Obligations.UnspecifiedRegistersAreNeverObserved := by
  refine ⟨fun d d' f f' s => resetTo_agree rfl rfl rfl rfl d d' f f', fun s t hs ht h => ?_⟩
  obtain ⟨s', t', hstep, hstep', hagree⟩ := step_agree h hs ht
  exact ⟨s', t', hstep, hstep', hagree, hagree.observed_eq⟩

end Sys2Proof.Machine

/-! SUPPORT. Hazards of the receive enable, and a core that waits for the host (R341, R351). -/

namespace Sys2Proof.Machine

/-! ### What a step can do to the receive enable (R196, R351) -/

/-- What an event can do to `RXIE` and the latch. -/
inductive EnableStep (s t : State) : Prop
  /-- The enable is kept. -/
  | kept (h : t.edge.rxie = s.edge.rxie)
  /-- The receive interrupt is masked. -/
  | masked (h : t.edge.rxie = false)
  /-- The latch is cleared and the receive interrupt enabled. -/
  | rearmed (h : t.edge = { rxie := true, rxif := false })

section
variable (s : State)

@[simp] theorem rxpop_edge : (rxpop s).edge = s.edge := by
  obtain ⟨-, heq⟩ | ⟨-, heq⟩ := rxpop_cases s <;> rw [heq] <;> rfl

@[simp] theorem rxDrainTurn_edge : (rxDrainTurn s).edge = s.edge := by
  simp only [rxDrainTurn]
  split <;> exact rxpop_edge s

@[simp] theorem mouseStep_edge : (mouseStep s).edge = s.edge := by
  unfold mouseStep
  split
  case h_1 =>
    dsimp only
    split <;> rfl
  case h_2 =>
    dsimp only
    split <;> exact rxpop_edge s
  case h_3 => exact rxpop_edge s
  case h_4 => exact rxpop_edge s

theorem tickOrUrgent_rxie : (tickOrUrgent s).edge.rxie = s.edge.rxie := by
  obtain ⟨-, heq⟩ | ⟨-, -, heq⟩ | ⟨-, -, heq⟩ := tickOrUrgent_cases s <;> simp [heq]

/-- A failed poll re-arms the receive path where it abandons the write (R195). -/
theorem failedPoll_enableStep : EnableStep s (failedPoll s) := by
  obtain ⟨-, heq⟩ | ⟨-, heq⟩ := failedPoll_cases s <;> rw [heq]
  · exact .kept rfl
  · exact .rearmed rfl

theorem wPollLow_enableStep : EnableStep s (wPollLow s) := by
  obtain ⟨-, heq⟩ | ⟨-, heq⟩ := wPollLow_cases s <;> rw [heq]
  · exact failedPoll_enableStep s
  · exact .kept rfl

theorem wPollHigh_enableStep : EnableStep s (wPollHigh s) := by
  obtain ⟨-, i, -, heq⟩ | ⟨-, -, heq⟩ | ⟨-, heq⟩ := wPollHigh_cases s <;> rw [heq]
  · exact .kept rfl
  · exact .kept rfl
  · exact failedPoll_enableStep s

theorem wPollAckL_enableStep : EnableStep s (wPollAckL s) := by
  obtain ⟨-, heq⟩ | ⟨-, heq⟩ := wPollAckL_cases s <;> rw [heq]
  · exact failedPoll_enableStep s
  · exact .kept rfl

theorem wPollAckH_enableStep : EnableStep s (wPollAckH s) := by
  obtain ⟨-, heq⟩ | ⟨-, heq⟩ := wPollAckH_cases s <;> rw [heq]
  · exact .rearmed rfl
  · exact failedPoll_enableStep s

/-- Of the commands PS2WR masks the receive interrupt, and RXEN masks it or clears the latch and enables it. -/
theorem exec_next_enableStep (i : Instr) : ∃ t, exec i s = .next t ∧ EnableStep s t := by
  cases i with
  | irsend code =>
    simp only [exec, execIrsend]
    split <;> exact ⟨_, rfl, .kept rfl⟩
  | ps2wr byte =>
    simp only [exec, execPs2wr]
    split
    · exact ⟨_, rfl, .kept rfl⟩
    · exact ⟨_, rfl, .masked rfl⟩
  | rxpop => exact ⟨_, rfl, .kept (congrArg EdgeIrq.rxie (rxpop_edge s))⟩
  | rxen en =>
    simp only [exec, execRxen]
    split
    · exact ⟨_, rfl, .kept rfl⟩
    · split
      · exact ⟨_, rfl, .rearmed rfl⟩
      · exact ⟨_, rfl, .masked rfl⟩
  | nop | irrpt | rxcnt | rdst | clrf => exact ⟨_, rfl, .kept rfl⟩
  | reserved9 | reservedA | reservedB | reservedC | reservedD | reservedE | reservedF => exact ⟨_, rfl, .kept rfl⟩

variable {s}

/-- A guarded step does to the receive enable what its effect does, or nothing. -/
theorem whenEnabled_enableStep (g : State → Bool) {f : State → State} (hf : EnableStep s (f s)) :
    EnableStep s (whenEnabled g f s) :=
  whenEnabled_inv (.kept rfl) fun _ => hf

theorem runEvent_next_enableStep (e : Event) : ∃ t, runEvent e s = .next t ∧ EnableStep s t := by
  cases e with
  | host cw => exact exec_next_enableStep s (decode cw)
  | rxDrain => exact ⟨_, rfl, .kept (congrArg EdgeIrq.rxie (rxDrainTurn_edge s))⟩
  | mouseDecode => exact ⟨_, rfl, .kept (congrArg EdgeIrq.rxie (mouseStep_edge s))⟩
  | tick => exact ⟨_, rfl, .kept (tickOrUrgent_rxie s)⟩
  | devDrive clk dat => exact ⟨_, rfl, .kept rfl⟩
  | rxService | wReqDone | wRtsDone | irFire | oscStep =>
    exact ⟨_, rfl, whenEnabled_enableStep _ (.kept rfl)⟩
  | wPollLow => exact ⟨_, rfl, whenEnabled_enableStep _ (wPollLow_enableStep s)⟩
  | wPollHigh => exact ⟨_, rfl, whenEnabled_enableStep _ (wPollHigh_enableStep s)⟩
  | wPollAckL => exact ⟨_, rfl, whenEnabled_enableStep _ (wPollAckL_enableStep s)⟩
  | wPollAckH => exact ⟨_, rfl, whenEnabled_enableStep _ (wPollAckH_enableStep s)⟩
  | reset => exact ⟨_, rfl, .masked rfl⟩

theorem runEvent_enableStep {e : Event} {t : State} (hrun : runEvent e s = .next t) : EnableStep s t := by
  obtain ⟨u, hu, hstep⟩ := runEvent_next_enableStep (s := s) e
  rw [hrun] at hu
  cases hu
  exact hstep

end

/-- Settles O40: an event that neither keeps the enable nor masks it re-arms, and re-arming clears the latch. -/
theorem enablingNeverLeavesAStaleEdge : Obligations.EnablingNeverLeavesAStaleEdge := by
  intro e s t hrun hoff hon
  cases runEvent_enableStep hrun with
  | kept h => simp [h, hoff] at hon
  | masked h => simp [h] at hon
  | rearmed h => rw [h]

/-! ### A core that waits for the host (R341) -/

section
variable {s : State}

/-- With the receive interrupt masked and the timer off a `TICK` meets no urgent step, and only time and the oscillator
move. -/
theorem tickOrUrgent_of_quiescent (hmask : s.edge.rxie = false) (hten : s.ir.ten = false) :
    tickOrUrgent s = { s with now := s.now + 1, osc := (oscSettle (oscTogglesAtOnce s.cfg) s).osc } := by
  obtain ⟨hservice, -⟩ | ⟨-, hfire, -⟩ | ⟨-, -, heq⟩ := tickOrUrgent_cases s
  · simp [rxServiceEnabled, hmask] at hservice
  · simp [irFireEnabled, hten] at hfire
  · rw [heq, tick_of_stopped ((congrArg IrEngine.ten (oscSettle_ir _ s)).trans hten), oscSettle_eq]

/-- A poll needs its wait state, in which an idle writer is not. -/
theorem whenWriter_of_idle (hidle : s.wr.ws = .idle) (ws : WState) (hws : .idle ≠ ws) (f : State → State) :
    whenWriter ws f s = s :=
  whenEnabled_false (decide_eq_false (hidle ▸ hws))

/-- With the receive interrupt masked, the writer idle and the timer off no engine has a step to take. -/
theorem runEvent_of_quiescent (hmask : s.edge.rxie = false) (hidle : s.wr.ws = .idle) (hten : s.ir.ten = false)
    {e : Event}
    (he : e ∈ [Event.rxService, .wReqDone, .wRtsDone, .wPollLow, .wPollHigh, .wPollAckL, .wPollAckH, .irFire]) :
    runEvent e s = .next s := by
  simp only [List.mem_cons, List.not_mem_nil, or_false] at he
  obtain rfl | rfl | rfl | rfl | rfl | rfl | rfl | rfl := he
  · exact congrArg _ (whenEnabled_false (by simp [rxServiceEnabled, hmask]))
  · exact congrArg _ (whenEnabled_false (by simp [wReqDoneEnabled, hidle]))
  · exact congrArg _ (whenEnabled_false (by simp [wRtsDoneEnabled, hidle]))
  · exact congrArg _ (whenWriter_of_idle hidle .wl nofun wPollLow)
  · exact congrArg _ (whenWriter_of_idle hidle .wh nofun wPollHigh)
  · exact congrArg _ (whenWriter_of_idle hidle .al nofun wPollAckL)
  · exact congrArg _ (whenWriter_of_idle hidle .ah nofun wPollAckH)
  · exact congrArg _ (whenEnabled_false (by simp [irFireEnabled, hten]))

end

/-- Settles O52: no engine has a step to take, and the environment and the oscillator write their own registers and the
latch. -/
theorem aQuiescentCoreWaitsForTheHost : Obligations.AQuiescentCoreWaitsForTheHost := by
  intro e s t hrun hmask hidle hten hhost hdrain hdecode hreset
  have hengine := runEvent_of_quiescent (e := e) hmask hidle hten
  obtain ⟨-, -, -, hosc, -⟩ := internalStepFrame e s t hrun
  cases e with
  | host w => exact absurd rfl (hhost w)
  | rxDrain => exact absurd rfl hdrain
  | mouseDecode => exact absurd rfl hdecode
  | reset => exact absurd rfl hreset
  | tick =>
    cases hrun
    rw [tickOrUrgent_of_quiescent hmask hten]
  | devDrive clk dat =>
    cases hrun
    rfl
  | oscStep => rw [hosc rfl]
  | rxService | wReqDone | wRtsDone | wPollLow | wPollHigh | wPollAckL | wPollAckH | irFire =>
    cases hrun.symm.trans (hengine (by simp))
    rfl

end Sys2Proof.Machine
